-- ==== Sys2Proof/Word.lean ====
section
/-! DEFINITION. The word types of KBDX (00_scope.md R10, R12): every value is unsigned. -/

namespace Sys2Proof

/-- A scan code, a stored entry, a ROM entry or a character: 8 bits (R10). -/
abbrev Byte := BitVec 8

/-- A command word, a READ extension word or a response word: 32 bits (30_encoding.md R70, R80). -/
abbrev Word := BitVec 32

/-- READ's requested count and its progress: REQ_W = 24 bits (R10, R75). -/
abbrev Count24 := BitVec 24

end Sys2Proof
end

