-- ==== Sys2Proof/Config.lean ====
section
/-! DEFINITION. The parameters of an instance (00_scope.md R9, 20_memory.md R52) and the values the spec leaves open. -/

namespace Sys2Proof

/-- One run of writable consumer bytes, `base .. base + size - 1`: an entry of the launch memory (R52). -/
structure Region where
  base : Nat
  size : Nat
  deriving DecidableEq, Repr

/-- The parameters of R9 and the launch memory of R52. They are fixed for a run: no step writes them
(DESIGN CHOICE that they ride in State: log entry 2). -/
structure Params where
  /-- `N` (`FIFO_DEPTH`), the FIFO capacity. -/
  depth    : Nat
  /-- `ADDR_W`, the width of a consumer memory address. -/
  addrW    : Nat
  /-- `KBD_DATA_PORT`, the port number given to the port read. -/
  dataPort : Nat
  /-- `KBD_IRQ_LINE`, the interrupt line DINIT registers. -/
  irqLine  : Nat
  /-- The launch memory: the consumer bytes READ may write (R52). -/
  launch   : List Region
  deriving DecidableEq, Repr

namespace Config

/-- FREE VALUE. One less than the capacity N, which R9 leaves OPEN with `N >= 1` (log entry 2). -/
opaque fifoDepthPred : Nat

/-- FREE VALUE. `KBD_DATA_PORT` is OPEN: "any natural number" (R9, log entry 2). -/
opaque kbdDataPort : Nat

/-- FREE VALUE. `KBD_IRQ_LINE` is OPEN: "any natural number" (R9, log entry 2). -/
opaque kbdIrqLine : Nat

/-- FREE VALUE. The launch memory is "the model's parameter that lists the writable consumer bytes" (R52, log entry 2). -/
opaque launchMemory : List Region

/-- FREE VALUE. The byte the `Port` oracle answers to the n-th PortRead of a run (R206: any of the 256 values,
chosen independently at each call; log entry 10). -/
opaque portDraw : Nat → Byte

/-- `ADDR_W` = 32, the spec's choice (R9, D3). -/
def addrWidth : Nat := 32

/-- The instance that State.reset stands for: every open parameter is a free value. -/
def params : Params :=
  { depth := fifoDepthPred + 1, addrW := addrWidth, dataPort := kbdDataPort, irqLine := kbdIrqLine,
    launch := launchMemory }

end Config

end Sys2Proof
end

