-- ==== Sys2Proof/Syntax.lean ====
section
/-! DEFINITION. The commands of KBDX: one constructor per row of spec/opcode_table.json (30_encoding.md R76). -/

namespace Sys2Proof

/-- The two agents that issue commands (00_scope.md R8). -/
inductive Agent where
  /-- The interrupt context. -/
  | producer
  /-- The normal context. -/
  | consumer
  deriving DecidableEq, Repr

/-- A decoded command (R76, R78). Operands are those of R75. -/
inductive Instr where
  /-- FINIT (R101). -/
  | finit
  /-- PUSH b (R102). -/
  | push (b : Byte)
  /-- POP (R103). -/
  | pop
  /-- EMPTY (R104). -/
  | empty
  /-- XLAT b (R121). -/
  | xlat (b : Byte)
  /-- DINIT (R150). -/
  | dinit
  /-- IRQ (R155). -/
  | irq
  /-- READ cnt, base (R160). -/
  | read (cnt : Count24) (base : Word)
  deriving DecidableEq, Repr

end Sys2Proof
end

