-- ==== Sys2Proof/WellFormed.lean ====
section
/-! DEFINITION. What makes a command and an instance well-formed (30_encoding.md R74, R77; 00_scope.md R9). -/

namespace Sys2Proof

/-- READ's base is an address: bits 31:ADDR_W are 0 (R74). Every other operand fills its field exactly (R75). -/
def Instr.wellFormed (addrW : Nat) : Instr → Bool
  | .finit => true
  | .push _ => true
  | .pop => true
  | .empty => true
  | .xlat _ => true
  | .dinit => true
  | .irq => true
  | .read _ base => decide (base.toNat < 2 ^ addrW)

/-- The constraints of R9: `N >= 1` and `ADDR_W` in 1..32. -/
abbrev Params.wf (p : Params) : Prop := 1 ≤ p.depth ∧ 1 ≤ p.addrW ∧ p.addrW ≤ 32

end Sys2Proof
end

