-- ==== Sys2Proof/Decode.lean ====
section
/-! DEFINITION. The command encoding (30_encoding.md): fields, decoder, encoder, byte order, opcode table. -/

namespace Sys2Proof

/-! ## A command's words and their fields -/

/-- The words an agent presents: the first word, and the extension word where it gives one (R70, R78 `decode(w0, w1?)`). -/
structure Command where
  w0 : Word
  w1 : Option Word
  deriving DecidableEq, Repr

/-- Why a command is illegal. Every case raises F_ILLEGAL_CMD (R77). -/
inductive DecodeError where
  /-- OP = 0x00 or OP in 0x09..0xFF. -/
  | unassignedOpcode
  /-- A must-be-zero field is not 0 (bits 23:0 of Format Z, bits 23:8 of Format B). -/
  | nonzeroField
  /-- READ's base has a bit set at or above ADDR_W. -/
  | baseTooWide
  /-- READ came without its extension word (DEDUCED: log entry 6). -/
  | missingExtension
  /-- Fewer bytes than the command's words need (byte-serial form only). -/
  | truncated
  deriving DecidableEq, Repr

/-- OP, bits 31:24 (R71). -/
def opOf (w : Word) : BitVec 8 := w.extractLsb' 24 8

/-- The low 24 bits: Format Z's ZERO field (R72) and Format R's CNT field (R74). -/
def low24 (w : Word) : Count24 := w.extractLsb' 0 24

/-- Bits 23:8: Format B's ZERO field (R73). -/
def mid16 (w : Word) : BitVec 16 := w.extractLsb' 8 16

/-- Bits 7:0: Format B's operand byte (R73, R75). -/
def low8 (w : Word) : Byte := w.extractLsb' 0 8

/-- READ's OP value, the only one that makes a command two words long (R71). -/
def opRead : BitVec 8 := 0x08

/-- How many words a command has: decided by OP alone (R71). -/
def wordCount (w0 : Word) : Nat := if opOf w0 = opRead then 2 else 1

/-- The words that make up the command: the extension word counts for READ only (R71, log entry 6). -/
def Command.words (c : Command) : List Word :=
  if opOf c.w0 = opRead then c.w0 :: c.w1.toList else [c.w0]

/-! ## The decoder (R71 to R78) -/

/-- Format Z (R72). -/
def decodeZ (i : Instr) (w0 : Word) : Except DecodeError Instr :=
  if low24 w0 = 0 then .ok i else .error .nonzeroField

/-- Format B (R73). -/
def decodeB (mk : Byte → Instr) (w0 : Word) : Except DecodeError Instr :=
  if mid16 w0 = 0 then .ok (mk (low8 w0)) else .error .nonzeroField

/-- Format R (R74). -/
def decodeR (addrW : Nat) (w0 : Word) (w1 : Option Word) : Except DecodeError Instr :=
  match w1 with
  | none => .error .missingExtension
  | some base => if base.toNat < 2 ^ addrW then .ok (.read (low24 w0) base) else .error .baseTooWide

/-- The total decoder (R78): the opcode map of R76, everything else illegal (R77). It reads neither the issuing
agent nor the state. -/
def decode (addrW : Nat) (c : Command) : Except DecodeError Instr :=
  match (opOf c.w0).toNat with
  | 0x01 => decodeZ .finit c.w0
  | 0x02 => decodeB .push c.w0
  | 0x03 => decodeZ .pop c.w0
  | 0x04 => decodeZ .empty c.w0
  | 0x05 => decodeB .xlat c.w0
  | 0x06 => decodeZ .dinit c.w0
  | 0x07 => decodeZ .irq c.w0
  | 0x08 => decodeR addrW c.w0 c.w1
  | _ => .error .unassignedOpcode

/-! ## Byte order (20_memory.md R53, R70): little-endian -/

/-- Byte 0 of the four holds bits 7:0. -/
def wordOfBytes (b0 b1 b2 b3 : Byte) : Word := b3 ++ b2 ++ b1 ++ b0

/-- The four bytes of a word, byte 0 first. -/
def bytesOfWord (w : Word) : List Byte :=
  [w.extractLsb' 0 8, w.extractLsb' 8 8, w.extractLsb' 16 8, w.extractLsb' 24 8]

/-- Take one word off a byte stream. -/
def takeWord : List Byte → Option (Word × List Byte)
  | b0 :: b1 :: b2 :: b3 :: rest => some (wordOfBytes b0 b1 b2 b3, rest)
  | _ => none

/-- Take one command off a byte stream: one word, and for READ a second (R70, R71). -/
def takeCommand (bs : List Byte) : Option (Command × List Byte) :=
  match takeWord bs with
  | none => none
  | some (w0, rest) =>
    if opOf w0 = opRead then
      match takeWord rest with
      | none => none
      | some (w1, rest') => some (⟨w0, some w1⟩, rest')
    else some (⟨w0, none⟩, rest)

/-- The decoder over bytes: the command and the bytes after it. Total on any bytes. -/
def decodeBytes (addrW : Nat) (bs : List Byte) : Except DecodeError (Instr × List Byte) :=
  match takeCommand bs with
  | none => .error .truncated
  | some (c, rest) =>
    match decode addrW c with
    | .error e => .error e
    | .ok i => .ok (i, rest)

/-! ## The encoder, from the same tables (R72 to R76) -/

/-- Format Z: OP and 24 zeros (R72). -/
def encodeZ (op : BitVec 8) : Command := ⟨op ++ (0 : BitVec 24), none⟩

/-- Format B: OP, 16 zeros and the operand byte (R73). -/
def encodeB (op : BitVec 8) (b : Byte) : Command := ⟨op ++ (0 : BitVec 16) ++ b, none⟩

/-- Format R: OP and CNT, then BASE (R74). -/
def encodeR (cnt : Count24) (base : Word) : Command := ⟨opRead ++ cnt, some base⟩

/-- The words of a command (R72 to R76). -/
def encode : Instr → Command
  | .finit => encodeZ 0x01
  | .push b => encodeB 0x02 b
  | .pop => encodeZ 0x03
  | .empty => encodeZ 0x04
  | .xlat b => encodeB 0x05 b
  | .dinit => encodeZ 0x06
  | .irq => encodeZ 0x07
  | .read cnt base => encodeR cnt base

/-- The bytes of a command, in the order a byte-serial interface carries them (R53, R70). -/
def encodeBytes (i : Instr) : List Byte := (encode i).words.flatMap bytesOfWord

/-! ## The opcode table's other columns (R76) -/

/-- The agent that may issue a command (R76, R203). -/
def Instr.agent : Instr → Agent
  | .finit => .consumer
  | .push _ => .producer
  | .pop => .consumer
  | .empty => .consumer
  | .xlat _ => .consumer
  | .dinit => .consumer
  | .irq => .producer
  | .read _ _ => .consumer

/-- A row of R76's match and mask table: a word belongs to the row when `w0 & mask = match`. -/
structure OpRow where
  mask    : Word
  pattern : Word
  deriving DecidableEq, Repr

/-- The row of a command (R76). -/
def Instr.row : Instr → OpRow
  | .finit => ⟨0xFFFFFFFF, 0x01000000⟩
  | .push _ => ⟨0xFFFFFF00, 0x02000000⟩
  | .pop => ⟨0xFFFFFFFF, 0x03000000⟩
  | .empty => ⟨0xFFFFFFFF, 0x04000000⟩
  | .xlat _ => ⟨0xFFFFFF00, 0x05000000⟩
  | .dinit => ⟨0xFFFFFFFF, 0x06000000⟩
  | .irq => ⟨0xFFFFFFFF, 0x07000000⟩
  | .read _ _ => ⟨0xFF000000, 0x08000000⟩

/-- The eight rows of R76, in the table's order. -/
def opTable : List OpRow :=
  [⟨0xFFFFFFFF, 0x01000000⟩, ⟨0xFFFFFF00, 0x02000000⟩, ⟨0xFFFFFFFF, 0x03000000⟩, ⟨0xFFFFFFFF, 0x04000000⟩,
   ⟨0xFFFFFF00, 0x05000000⟩, ⟨0xFFFFFFFF, 0x06000000⟩, ⟨0xFFFFFFFF, 0x07000000⟩, ⟨0xFF000000, 0x08000000⟩]

/-- `w0 & mask = match` (R76). -/
def OpRow.covers (r : OpRow) (w0 : Word) : Bool := w0 &&& r.mask == r.pattern

/-! ## The opcode table's words, as the host numbers them -/

/-- The longest command is two words, eight bytes (R71). -/
def maxCommandBytes : Nat := 8

/-- The low `nbits` bits of `w` as the bytes the hardware carries, zeros above them, up to the longest command. -/
def tableBytes (nbits w : Nat) : List Byte :=
  (List.range maxCommandBytes).map fun k => BitVec.ofNat 8 ((w % 2 ^ nbits) / 2 ^ (8 * k))

/-- The same bits as a command on the command interface. -/
def tableCommand (nbits w : Nat) : Command :=
  match takeCommand (tableBytes nbits w) with
  | some (c, _) => c
  | none => ⟨0, none⟩

/-- The instruction the decoder reads from an opcode-table word: bit 0 is the least significant bit of the first word. -/
def decodeTableWord (nbits w : Nat) : Option Instr :=
  match decodeBytes Config.addrWidth (tableBytes nbits w) with
  | .ok (i, _) => some i
  | .error _ => none

/-- The agent whose command a word is, where it decodes (R76); an illegal word is given to the Consumer, since its
decoding does not depend on the agent (R78). -/
def issuingAgent (addrW : Nat) (c : Command) : Agent :=
  match decode addrW c with
  | .ok i => i.agent
  | .error _ => .consumer

end Sys2Proof
end

