-- ==== Sys2Proof/Machine/State.lean ====
section
/-! DEFINITION. The state of KBDX (10_state.md), its outcome marks, and its value after reset. -/

namespace Sys2Proof.Machine

/-- A byte-addressed space as (address, byte) pairs, addresses strictly rising. An address that is not listed has no
value: UNWRITTEN for the FIFO storage (R20, R36, R241), a byte the block has not written for consumer memory. -/
abbrev Memory := List Host.Cell

/-- The three modifier flags (R28): left-shift-held, right-shift-held, caps-lock-active. -/
structure Modifiers where
  lshift : Bool
  rshift : Bool
  caps   : Bool
  deriving DecidableEq, Repr

/-- All three flags false, as at driver start (R28). -/
def Modifiers.clear : Modifiers := ⟨false, false, false⟩

/-- The events the history records (00_scope.md R14). -/
inductive Event where
  /-- `MemWrite(addr, 1, v)`. -/
  | memWrite (addr : Nat) (v : Byte)
  /-- `PortRead(port) = b`. -/
  | portRead (port : Nat) (b : Byte)
  /-- `Ack()`. -/
  | ack
  /-- `Register(line)`. -/
  | register (line : Nat)
  deriving DecidableEq, Repr

/-- The fault codes of R201, each with its recorded value. -/
inductive FaultCause where
  /-- F_ILLEGAL_CMD; recorded: the command words. -/
  | illegalCmd (words : List Word)
  /-- F_POP_EMPTY; recorded: HEAD. -/
  | popEmpty (head : Nat)
  /-- F_INVARIANT; recorded: the number of the lowest-numbered failed invariant of R25, or 6 for an unwritten entry. -/
  | invariant (number : Nat)
  deriving DecidableEq, Repr

/-- What FAULT holds: (code, agent, command words, recorded value) (R202); code and recorded value are the cause. -/
structure FaultMark where
  cause : FaultCause
  agent : Agent
  words : List Word
  deriving DecidableEq, Repr

/-- The refusal reasons of R203. -/
inductive RefusalReason where
  | wrongAgent
  | consumerBusy
  | doubleInit
  deriving DecidableEq, Repr

/-- What REFUSED holds: (reason, agent, command words) (R203). -/
structure RefusalMark where
  reason : RefusalReason
  agent  : Agent
  words  : List Word
  deriving DecidableEq, Repr

/-- A response word and the agent it is returned to (R80). -/
structure Response where
  agent : Agent
  word  : Word
  deriving DecidableEq, Repr

/-- One choice of the scheduler (R8, R79). -/
inductive Attempt where
  /-- The agent issues a command; `answer` is the byte the Port oracle answers to this command's PortRead, where the program
  fixes it (R79's `IRQ` line with a byte). -/
  | issue (agent : Agent) (cmd : Command) (answer : Option Byte)
  /-- The Consumer takes a READ step, the spec's `C: STEP` (R79, R162). -/
  | readStep
  deriving DecidableEq, Repr

/-- The four outcomes of an attempted step (R200). -/
inductive StepOutcome where
  | ran
  | faulted
  | refused
  | noStep
  deriving DecidableEq, Repr

/-- The state of the block: R20's tuple, "Nothing else is state". -/
structure Block where
  /-- `MEM[0..N-1]`; an index that is not listed is UNWRITTEN. -/
  mem       : Memory
  /-- `HEAD`, the index of the next entry to read. -/
  head      : Nat
  /-- `TAIL`, the index of the next entry to write. -/
  tail      : Nat
  /-- `COUNT`, the number of buffered, unread entries. -/
  count     : Nat
  /-- `LSHIFT`, `RSHIFT`, `CAPS`. -/
  mods      : Modifiers
  /-- `IRQ_REG`: DINIT has registered the interrupt handler (R31). -/
  irqReg    : Bool
  /-- `RD_ACTIVE`: a READ call has not returned (R32). -/
  rdActive  : Bool
  /-- `RD_BASE`, the output base address (R32). -/
  rdBase    : Word
  /-- `RD_REQ`, the requested count (R32). -/
  rdReq     : Count24
  /-- `RD_WRITTEN`, the characters written so far (R23, R32). -/
  rdWritten : Count24
  /-- `FAULT` (R33, R202). -/
  fault     : Option FaultMark
  /-- `REFUSED` (R33, R203). -/
  refused   : Option RefusalMark
  /-- `H`, the event history, oldest first (R34). -/
  history   : List Event
  deriving DecidableEq, Repr

/-- What R21 says is NOT state of the block: the parameters of its step relation. `Block.step` (BlockStep.lean) takes them as
arguments; the host's `step` takes one argument, so there they stand beside the block as data (log entries 1, 2, 10). -/
structure Environment where
  /-- The instance's parameters (R9, R52; log entry 2). -/
  params     : Params
  /-- The scheduler's choices still to come, next first (R8, R59; log entry 1). -/
  inbox      : List Attempt
  /-- The agent of the attempt being made (log entry 11). -/
  issuer     : Agent
  /-- The Port oracle's answer, where the attempt being made fixes it (R79; log entry 10). -/
  portAnswer : Option Byte
  /-- How many PortReads have been made: the index of the next free draw (log entry 10). -/
  drawIndex  : Nat
  deriving DecidableEq, Repr

/-- The state of the machine: the block, the parameters of its next steps, the consumer memory READ writes (R50, R51), and
what the model observes. -/
structure State extends Block, Environment where
  /-- Consumer memory: the bytes READ has written (R50, R51, R66; log entry 9). -/
  cmem      : Memory
  /-- The response words returned so far, oldest first (R80; log entry 11). -/
  responses : List Response
  /-- What the last attempt came to (R200; log entry 11). -/
  last      : Option StepOutcome
  deriving DecidableEq, Repr

/-- Why the machine stops with a fault. -/
inductive Fault where
  /-- Raised by `step` alone, in a state whose FAULT is set: "a state with FAULT set has no step" (R33, R202, R207
  check 1). Safe: the hardware has no step there either. -/
  | marked (m : FaultMark)
  deriving DecidableEq, Repr

/-- Why the machine refuses to go on. -/
inductive Refusal where
  /-- Raised by an arm of `exec` whose instruction has no meaning yet (no arm is). Safe. -/
  | notModelled (mnemonic : String)
  /-- Raised by `step` alone, in a state whose REFUSED is set: it "has no further step" (R200, R203, R207 check 1).
  Safe: the hardware has no step there either. -/
  | marked (m : RefusalMark)
  deriving DecidableEq, Repr

/-- The outcome of a meaning or of a step. -/
abbrev Result := Host.Outcome State Fault Refusal

/-- The state after reset (R36, R240). RD_BASE, RD_REQ and RD_WRITTEN are unspecified there: 0 is a DESIGN CHOICE
(log entry 7). -/
def State.reset : State where
  mem        := []
  head       := 0
  tail       := 0
  count      := 0
  mods       := Modifiers.clear
  irqReg     := false
  rdActive   := false
  rdBase     := 0
  rdReq      := 0
  rdWritten  := 0
  fault      := none
  refused    := none
  history    := []
  params     := Config.params
  inbox      := []
  issuer     := .consumer
  portAnswer := none
  drawIndex  := 0
  cmem       := []
  responses  := []
  last       := none

end Sys2Proof.Machine
end

