-- ==== Sys2Proof/Machine/Memory.lean ====
section
/-! DEFINITION. Reading and writing one byte of a space, its canonical form, and the replay of a history's writes. -/

namespace Sys2Proof.Machine

/-- The byte at an address: `none` where nothing was written (UNWRITTEN, R36). -/
def Memory.read : Memory → Nat → Option Byte
  | [], _ => none
  | (b, w) :: m, a => if b = a then some w else Memory.read m a

/-- Write one byte, keeping addresses strictly rising. -/
def Memory.write : Memory → Nat → Byte → Memory
  | [], a, v => [(a, v)]
  | (b, w) :: m, a, v =>
    if a < b then (a, v) :: (b, w) :: m
    else if a = b then (a, v) :: m
    else (b, w) :: Memory.write m a v

/-- Every listed address is at least `lo`, and addresses rise strictly. -/
def Memory.risesFrom : Nat → Memory → Bool
  | _, [] => true
  | lo, (a, _) :: m => decide (lo ≤ a) && Memory.risesFrom (a + 1) m

/-- The canonical form. No byte equals "no value", so no entry is ever equal to what an unlisted address reads as. -/
def Memory.wf (m : Memory) : Bool := Memory.risesFrom 0 m

/-- Every listed address is below `n`. -/
def Memory.below (n : Nat) (m : Memory) : Bool := m.all fun c => decide (c.1 < n)

/-- The effect of one event on consumer memory: only MemWrite has one (R14, R51). -/
def Event.apply (m : Memory) : Event → Memory
  | .memWrite a v => Memory.write m a v
  | .portRead _ _ => m
  | .ack => m
  | .register _ => m

/-- Consumer memory as a history leaves it, from memory in which the block has written nothing (R66). -/
def replay (h : List Event) : Memory := h.foldl Event.apply []

end Sys2Proof.Machine
end

