-- ==== Sys2Proof/Machine/Flags.lean ====
section
/-! DEFINITION. The derived signals: EMPTY, FULL (R27), SHIFT_ACTIVE (R28), the derived widths (R10), the abstract
queue (R26), and the FIFO invariants of R25. -/

namespace Sys2Proof.Machine

/-- `EMPTY = (COUNT == 0)` (R27): emptiness is decided by COUNT, never by the indices (90_conflicts.md C1). -/
def State.isEmpty (s : State) : Bool := s.count == 0

/-- `FULL = (COUNT == N)` (R27). -/
def State.isFull (s : State) : Bool := s.count == s.params.depth

/-- `SHIFT_ACTIVE = LSHIFT or RSHIFT` (R28). -/
def Modifiers.shiftActive (m : Modifiers) : Bool := m.lshift || m.rshift

/-- `IDX_W = max(1, ceil(log2 N))` (R10). -/
def idxWidth (n : Nat) : Nat := max 1 (Nat.clog 2 n)

/-- `CNT_W = ceil(log2 (N+1))` (R10). -/
def cntWidth (n : Nat) : Nat := Nat.clog 2 (n + 1)

/-- The next index, modulo N (R105). -/
def nextIndex (n x : Nat) : Nat := (x + 1) % n

/-- The storage index of the i-th oldest entry (R26). -/
def State.slot (s : State) (i : Nat) : Nat := (s.head + i) % s.params.depth

/-- The abstract queue Q, oldest first (R26). Under invariant 6 of R25 no entry of the range is missing. -/
def State.queue (s : State) : List Byte := (List.range s.count).filterMap fun i => s.mem.read (s.slot i)

/-- Invariant 1 of R25. -/
def State.inv1 (s : State) : Bool := decide (s.count ≤ s.params.depth)

/-- Invariant 2 of R25. -/
def State.inv2 (s : State) : Bool := decide (s.head < s.params.depth) && decide (s.tail < s.params.depth)

/-- Invariant 3 of R25. -/
def State.inv3 (s : State) : Bool := s.tail == (s.head + s.count) % s.params.depth

/-- Invariant 4 of R25: COUNT = 0 implies HEAD = TAIL. -/
def State.inv4 (s : State) : Bool := !(s.count == 0) || s.head == s.tail

/-- Invariant 5 of R25: HEAD = TAIL implies COUNT = 0 or COUNT = N. -/
def State.inv5 (s : State) : Bool := !(s.head == s.tail) || (s.count == 0 || s.count == s.params.depth)

/-- Invariant 6 of R25: every entry of the queue is written. -/
def State.inv6 (s : State) : Bool := (List.range s.count).all fun i => (s.mem.read (s.slot i)).isSome

/-- The number of the lowest-numbered invariant of R25 that the state breaks (R201, D14). -/
def State.brokenInvariant (s : State) : Option Nat :=
  if !s.inv1 then some 1
  else if !s.inv2 then some 2
  else if !s.inv3 then some 3
  else if !s.inv4 then some 4
  else if !s.inv5 then some 5
  else if !s.inv6 then some 6
  else none

/-- All six invariants of R25. -/
def State.fifoOk (s : State) : Bool := s.brokenInvariant == none

end Sys2Proof.Machine
end

