-- ==== Sys2Proof/Machine/Operands.lean ====
section
/-! DEFINITION. READ's output address and its admission (20_memory.md R51, R52), and the response words (30_encoding.md R80).
The operand fields of a command word are taken in Decode.lean (R75). -/

namespace Sys2Proof.Machine

/-- The address the next character of the active READ goes to: `RD_BASE + RD_WRITTEN`, exact, no wrap (R51, R52). -/
def State.outAddr (s : State) : Nat := s.rdBase.toNat + s.rdWritten.toNat

/-- The region lists the address. -/
def regionHas (a : Nat) (r : Region) : Bool := decide (r.base ≤ a) && decide (a < r.base + r.size)

/-- The launch memory admits a 1-byte write: the address is below 2^ADDR_W and listed (R52). -/
def admits (p : Params) (a : Nat) : Bool := decide (a < 2 ^ p.addrW) && p.launch.any (regionHas a)

/-- A bit as a number. -/
def bit (b : Bool) : Word := if b then 1 else 0

/-- FINIT: no response bits (R80). -/
def respFinit : Word := 0

/-- PUSH: bit 0 = ok (R80). -/
def respPush (ok : Bool) : Word := bit ok

/-- POP: bits 7:0 = the byte removed (R80). -/
def respPop (v : Byte) : Word := v.setWidth 32

/-- EMPTY: bit 0 = EMPTY (R80). -/
def respEmpty (e : Bool) : Word := bit e

/-- XLAT: bit 8 = valid, bits 7:0 = the character, 0x00 when NONE (R80). -/
def respXlat : Option Byte → Word
  | none => 0
  | some c => 0x100 ||| c.setWidth 32

/-- DINIT: the 32-bit status, always 0 = success (R80, R151). -/
def respDinit : Word := 0

/-- IRQ: bit 0 = ok of the push, bits 15:8 = the byte the PortRead returned (R80). -/
def respIrq (ok : Bool) (b : Byte) : Word := bit ok ||| (b.setWidth 32 <<< 8)

/-- READ: bits 23:0 = actual_count (R80). -/
def respRead (n : Count24) : Word := n.setWidth 32

end Sys2Proof.Machine
end

