-- ==== Sys2Proof/Machine/Ops.lean ====
section
/-! DEFINITION. The shared operations: how an attempt ends (R200), fault entry (R202), refusal entry (R203), the FIFO's
writes, the port draw, events, the READ call's registers, and the checks every command passes (R207). -/

namespace Sys2Proof.Machine

/-! ## How an attempt ends -/

/-- The command completed: its response goes to the agent (R80). -/
def State.respond (ag : Agent) (w : Word) (s : State) : State :=
  { s with responses := s.responses ++ [⟨ag, w⟩], last := some .ran }

/-- The step ran and returns no response yet: READ's issue and its iterations (R160, R163). -/
def State.ranSilently (s : State) : State := { s with last := some .ran }

/-- The step is not enabled: no step, the state unchanged (R200, R204; log entry 3). -/
def State.noStep (s : State) : State := { s with last := some .noStep }

/-- FAULT ENTRY (R202), the one operation every fault takes: FAULT <- (code, agent, command words, recorded value); no
element of the rule is written and no event is appended. Nothing returns from it: no rule clears FAULT. -/
def State.enterFault (cause : FaultCause) (ag : Agent) (ws : List Word) (s : State) : State :=
  { s with fault := some ⟨cause, ag, ws⟩, last := some .faulted }

/-- REFUSAL ENTRY (R203): REFUSED <- (reason, agent, command words) and nothing else. It is permanent. -/
def State.enterRefusal (reason : RefusalReason) (ag : Agent) (ws : List Word) (s : State) : State :=
  { s with refused := some ⟨reason, ag, ws⟩, last := some .refused }

/-! ## The FIFO -/

/-- The writes of FINIT and DINIT: HEAD, TAIL and COUNT <- 0; the storage is left as it is (R101, R150). -/
def State.emptied (s : State) : State := { s with head := 0, tail := 0, count := 0 }

/-- A push's writes when there is room (R102): MEM[TAIL], TAIL and COUNT. -/
def State.stored (b : Byte) (s : State) : State :=
  { s with
    mem := s.mem.write s.tail b
    tail := nextIndex s.params.depth s.tail
    count := s.count + 1 }

/-- A push (R102, R155): stored if COUNT is not N, otherwise dropped. -/
def State.pushed (b : Byte) (s : State) : State := if s.isFull then s else s.stored b

/-- A pop's writes (R103, R163): HEAD and COUNT; the slot keeps its byte as a stale value. -/
def State.removed (s : State) : State :=
  { s with head := nextIndex s.params.depth s.head, count := s.count - 1 }

/-! ## The modifier flags, the history, the port -/

/-- Write the modifier flags back (R120). -/
def State.withMods (m : Modifiers) (s : State) : State := { s with mods := m }

/-- Append one event (R34). -/
def State.logged (e : Event) (s : State) : State := { s with history := s.history ++ [e] }

/-- The byte the Port oracle answers: the one this attempt fixes, or else a free value (R79, R206; log entry 10). -/
def State.nextPortByte (s : State) : Byte := s.portAnswer.getD (Config.portDraw s.drawIndex)

/-- The oracle has answered once more: the next read is a fresh draw (R56). -/
def State.drawn (s : State) : State :=
  { s with portAnswer := none, drawIndex := s.drawIndex + 1 }

/-- DINIT's registration of the handler: IRQ_REG <- 1 (R31, R150). -/
def State.registered (s : State) : State := { s with irqReg := true }

/-! ## The READ call -/

/-- READ's issue: RD_ACTIVE, RD_BASE, RD_REQ and RD_WRITTEN (R160). -/
def State.readBegun (cnt : Count24) (base : Word) (s : State) : State :=
  { s with rdActive := true, rdBase := base, rdReq := cnt, rdWritten := 0 }

/-- A READ iteration's `MemWrite(RD_BASE + RD_WRITTEN, 1, c)` and the advance of RD_WRITTEN (R163). -/
def State.charWritten (c : Byte) (s : State) : State :=
  { s with
    cmem := s.cmem.write s.outAddr c
    history := s.history ++ [.memWrite s.outAddr c]
    rdWritten := s.rdWritten + 1 }

/-- READ's completion: RD_ACTIVE <- 0; the other RD registers keep their values (R164). -/
def State.readEnded (s : State) : State := { s with rdActive := false }

/-! ## The checks of an issued command (R207) -/

/-- Checks 4 and 5 of R207, in that order, then the command's own rule. Checks 1 to 3 are `select`'s (Select.lean). -/
def checked (i : Instr) (body : State → State) (s : State) : State :=
  if s.issuer ≠ i.agent then s.enterRefusal .wrongAgent s.issuer (encode i).words
  else if s.issuer = .consumer ∧ s.rdActive = true then
    s.enterRefusal .consumerBusy s.issuer (encode i).words
  else body s

/-- The same state with the issuing agent named. -/
def State.issuedBy (ag : Agent) (s : State) : State := { s with issuer := ag }

/-! ## The attempt being made -/

/-- The agent whose step an attempt is. -/
def Attempt.agent : Attempt → Agent
  | .issue ag _ _ => ag
  | .readStep => .consumer

/-- The command words of an attempt; a READ step has none (log entry 5). -/
def Attempt.words : Attempt → List Word
  | .issue _ c _ => c.words
  | .readStep => []

/-- The port answer an attempt fixes (R79). -/
def Attempt.answer : Attempt → Option Byte
  | .issue _ _ b => b
  | .readStep => none

/-- Take the attempt off the schedule: its agent is the one whose step this is, its answer the port's. An answer that the step
does not draw goes with its attempt. -/
def State.accepted (a : Attempt) (rest : List Attempt) (s : State) : State :=
  { s with inbox := rest, issuer := a.agent, portAnswer := a.answer }

end Sys2Proof.Machine
end

