-- ==== Sys2Proof/Machine/Translate.lean ====
section
/-! DEFINITION. The translation function T (41_translator.md R120 to R124). -/

namespace Sys2Proof.Machine

/-- The key number of a scan code, `sc[6:0]`. -/
def keyOf (sc : Byte) : BitVec 7 := sc.extractLsb' 0 7

/-- `sc[7] = 1`: a break code, a release (R17, R122). -/
def isBreak (sc : Byte) : Bool := sc.getLsbD 7

/-- The release path (R122): three break codes toggle a flag; no release yields a character. -/
def release (k : BitVec 7) (m : Modifiers) : Modifiers :=
  if k = kLshift then { m with lshift := !m.lshift }
  else if k = kRshift then { m with rshift := !m.rshift }
  else if k = kCaps then { m with caps := !m.caps }
  else m

/-- The caps transform (R123): a..z to A..Z while CAPS is set, every other character unchanged. -/
def capsTransform (m : Modifiers) (c : Byte) : Byte :=
  if m.caps = true ∧ 0x61 ≤ c.toNat ∧ c.toNat ≤ 0x7A then c - 0x20 else c

/-- The shift transform (R124): SHIFT_ROM while either shift flag is set. -/
def shiftTransform (m : Modifiers) (c : Byte) : Byte :=
  if m.shiftActive then shiftRom (keyOf c) else c

/-- The character of a mapped key press: caps transform, then shift transform (R123). -/
def charOf (m : Modifiers) (c : Byte) : Byte := shiftTransform m (capsTransform m c)

/-- The press path (R123): the shift keys toggle on the press, caps-lock does not. -/
def press (k : BitVec 7) (m : Modifiers) : Option Byte × Modifiers :=
  if k = kLshift then (none, { m with lshift := !m.lshift })
  else if k = kRshift then (none, { m with rshift := !m.rshift })
  else if k = kCaps then (none, m)
  else if baseRom k = 0 then (none, m)
  else (some (charOf m (baseRom k)), m)

/-- T (R120): the result, NONE or SOME c, and the new flags. -/
def translate (sc : Byte) (m : Modifiers) : Option Byte × Modifiers :=
  if isBreak sc then (none, release (keyOf sc) m) else press (keyOf sc) m

end Sys2Proof.Machine
end

