-- ==== Sys2Proof/Machine/Driver.lean ====
section
/-! DEFINITION. The driver commands (42_driver.md): DINIT, IRQ, READ, and the READ steps that are not commands. -/

namespace Sys2Proof.Machine

/-- DINIT's rule (R150). -/
def bodyDinit (s : State) : State :=
  if s.irqReg then s.enterRefusal .doubleInit s.issuer (encode .dinit).words
  else
    (((s.emptied.withMods Modifiers.clear).logged (.register s.params.irqLine)).registered).respond s.issuer respDinit

/-- IRQ's rule (R155): enabled once the handler is registered; PortRead, push, Ack as one step. -/
def bodyIrq (s : State) : State :=
  if !s.irqReg then s.noStep
  else
    (((s.drawn.logged (.portRead s.params.dataPort s.nextPortByte)).pushed s.nextPortByte).logged .ack).respond
      s.issuer (respIrq (!s.isFull) s.nextPortByte)

/-- READ's issue (R160): the response comes with the completion. -/
def bodyRead (cnt : Count24) (base : Word) (s : State) : State := (s.readBegun cnt base).ranSilently

/-- DINIT: start the driver (R150). -/
def execDinit (s : State) : Result := .next (checked .dinit bodyDinit s)

/-- IRQ: one invocation of the keyboard interrupt handler (R155). -/
def execIrq (s : State) : Result := .next (checked .irq bodyIrq s)

/-- READ cnt, base: begin a read call (R160). -/
def execRead (cnt : Count24) (base : Word) (s : State) : Result := .next (checked (.read cnt base) (bodyRead cnt base) s)

/-! ## The READ steps (R162 to R164) -/

/-- The condition under which a READ step is an iteration (R163). -/
def State.iterates (s : State) : Bool := decide (s.rdWritten.toNat < s.rdReq.toNat) && decide (0 < s.count)

/-- The condition under which a READ step is the completion (R164). -/
def State.completes (s : State) : Bool := s.rdWritten == s.rdReq || s.count == 0

/-- One READ iteration (R163): pop, translate, write. If the write is not admitted the step does not exist: nothing is
popped and no flag changes (R52, R204). -/
def readIteration (s : State) : State :=
  match s.mem.read s.head with
  | none => s.enterFault (.invariant 6) .consumer []
  | some v =>
    match (translate v s.mods).1 with
    | none => (s.removed.withMods (translate v s.mods).2).ranSilently
    | some c =>
      if admits s.params s.outAddr then
        ((s.removed.withMods (translate v s.mods).2).charWritten c).ranSilently
      else s.noStep

/-- READ's completion (R164): actual_count goes to the Consumer. -/
def readCompletion (s : State) : State := s.readEnded.respond .consumer (respRead s.rdWritten)

/-- A READ step of the Consumer (R162): the iteration or the completion, whichever is enabled, and no step where neither
is (log entries 14 and 17). -/
def readStepState (s : State) : State :=
  if !s.rdActive then s.noStep
  else if s.iterates then readIteration s
  else if s.completes then readCompletion s
  else s.noStep

/-- A READ step as an outcome. -/
def execReadStep (s : State) : Result := .next (readStepState s)

end Sys2Proof.Machine
end

