-- ==== Sys2Proof/Machine/Fifo.lean ====
section
/-! DEFINITION. The FIFO commands (40_fifo.md): FINIT, PUSH, POP, EMPTY. -/

namespace Sys2Proof.Machine

/-- FINIT's rule (R101). -/
def bodyFinit (s : State) : State := s.emptied.respond s.issuer respFinit

/-- PUSH's rule (R102): a full FIFO drops the byte and answers ok = 0. -/
def bodyPush (b : Byte) (s : State) : State := (s.pushed b).respond s.issuer (respPush (!s.isFull))

/-- POP's rule (R103): F_POP_EMPTY on an empty FIFO, F_INVARIANT on an unwritten entry. -/
def bodyPop (s : State) : State :=
  if s.count = 0 then s.enterFault (.popEmpty s.head) s.issuer (encode .pop).words
  else
    match s.mem.read s.head with
    | none => s.enterFault (.invariant 6) s.issuer (encode .pop).words
    | some v => s.removed.respond s.issuer (respPop v)

/-- EMPTY's rule (R104): no state change. -/
def bodyEmpty (s : State) : State := s.respond s.issuer (respEmpty s.isEmpty)

/-- FINIT: initialise the FIFO (R101). -/
def execFinit (s : State) : Result := .next (checked .finit bodyFinit s)

/-- PUSH b: try to append one byte (R102). -/
def execPush (b : Byte) (s : State) : Result := .next (checked (.push b) (bodyPush b) s)

/-- POP: remove the oldest byte (R103). -/
def execPop (s : State) : Result := .next (checked .pop bodyPop s)

/-- EMPTY: test for emptiness (R104). -/
def execEmpty (s : State) : Result := .next (checked .empty bodyEmpty s)

end Sys2Proof.Machine
end

