-- ==== Sys2Proof/Machine/Translator.lean ====
section
/-! DEFINITION. The translator command (41_translator.md): XLAT. -/

namespace Sys2Proof.Machine

/-- XLAT's rule (R121): T on the current flags, the new flags written back. -/
def bodyXlat (b : Byte) (s : State) : State :=
  (s.withMods (translate b s.mods).2).respond s.issuer (respXlat (translate b s.mods).1)

/-- XLAT b: translate one scan code (R121). -/
def execXlat (b : Byte) (s : State) : Result := .next (checked (.xlat b) (bodyXlat b) s)

end Sys2Proof.Machine
end

