-- ==== Sys2Proof/Machine/Select.lean ====
section
/-! DEFINITION. What one step does before a command's own rule: the scheduler's next choice and checks 1 to 3 of R207. -/

namespace Sys2Proof.Machine

/-- What the checks leave to do. -/
inductive Selection where
  /-- The step's outcome is already decided. -/
  | done (r : Result)
  /-- Run the decoded command in this state. -/
  | run (i : Instr) (s : State)
  /-- Take a READ step in this state. -/
  | readStep (s : State)

/-- Checks 2 and 3 of R207 on an attempt that has been taken off the schedule. -/
def selectAttempt (a : Attempt) (s : State) : Selection :=
  match s.brokenInvariant with
  | some n => .done (.next (s.enterFault (.invariant n) a.agent a.words))
  | none =>
    match a with
    | .readStep => .readStep s
    | .issue ag c _ =>
      match decode s.params.addrW c with
      | .error _ => .done (.next (s.enterFault (.illegalCmd c.words) ag c.words))
      | .ok i => .run i s

/-- Check 1 of R207 (a marked state has no step), then the scheduler's next choice. With none left the machine idles: the
block's state changes only by steps (R7; log entry 1). -/
def select (s : State) : Selection :=
  match s.fault with
  | some m => .done (.fault (.marked m))
  | none =>
    match s.refused with
    | some m => .done (.refused (.marked m))
    | none =>
      match s.inbox with
      | [] => .done (.next s)
      | a :: rest => selectAttempt a (s.accepted a rest)

/-- Put one command at the front of the schedule, issued by the agent it belongs to (log entry 16). -/
def State.offered (c : Command) (s : State) : State :=
  { s with inbox := .issue (issuingAgent s.params.addrW c) c none :: s.inbox }

end Sys2Proof.Machine
end

