-- ==== Sys2Proof/Machine/Dispatch.lean ====
section
/-! DEFINITION. One arm per command. -/

namespace Sys2Proof.Machine

def exec (i : Instr) (s : State) : Host.Outcome State Fault Refusal :=
  match i with
  | .finit => Sys2Proof.Machine.execFinit s
  | .push b => Sys2Proof.Machine.execPush b s
  | .pop => Sys2Proof.Machine.execPop s
  | .empty => Sys2Proof.Machine.execEmpty s
  | .xlat b => Sys2Proof.Machine.execXlat b s
  | .dinit => Sys2Proof.Machine.execDinit s
  | .irq => Sys2Proof.Machine.execIrq s
  | .read cnt base => Sys2Proof.Machine.execRead cnt base s

end Sys2Proof.Machine
end

