-- ==== Sys2Proof/Machine/Step.lean ====
section
/-! DEFINITION. One step of the machine: one attempt of the scheduler's (00_scope.md R7, R200; 60_exceptions.md R207). -/

namespace Sys2Proof.Machine

/-- One attempted step: checks 1 to 3 of R207, then the command's meaning or a READ step. -/
def step (s : State) : Host.Outcome State Fault Refusal :=
  match select s with
  | .done r => r
  | .run i t => exec i t
  | .readStep t => execReadStep t

/-- `s` with an opcode-table word placed where `step` takes its next command: at the front of the schedule. -/
def State.withFetchWord (s : State) (nbits w : Nat) : State := s.offered (tableCommand nbits w)

end Sys2Proof.Machine
end

