-- ==== Sys2Proof/Machine/Program.lean ====
section
/-! DEFINITION. The lines of a program (30_encoding.md R79): what each puts on the schedule, and its text. -/

namespace Sys2Proof.Machine

/-- One line of R79's syntax, without its text. -/
inductive ProgramLine where
  /-- `<agent>: <MNEMONIC> [operands]`. -/
  | cmd (agent : Agent) (i : Instr)
  /-- `P: IRQ` with the byte the Port oracle answers it, so that the program fixes its draws. -/
  | irqByte (b : Byte)
  /-- `C: STEP`: one READ step; it has no encoding. -/
  | readStep
  deriving DecidableEq, Repr

/-- The attempt a line stands for. The byte of an `IRQ` line stays with that line's attempt. -/
def ProgramLine.attempt : ProgramLine → Attempt
  | .cmd ag i => .issue ag (encode i) none
  | .irqByte b => .issue .producer (encode .irq) (some b)
  | .readStep => .readStep

/-- Give a program to the machine: its attempts as the schedule. -/
def State.load (prog : List ProgramLine) (s : State) : State := { s with inbox := prog.map ProgramLine.attempt }

/-- A mnemonic as the opcode table spells it (R76). -/
def mnemonicOf : Instr → String
  | .finit => "FINIT"
  | .push _ => "PUSH"
  | .pop => "POP"
  | .empty => "EMPTY"
  | .xlat _ => "XLAT"
  | .dinit => "DINIT"
  | .irq => "IRQ"
  | .read _ _ => "READ"

/-- A hexadecimal number, one of R79's two operand forms. -/
def hexText (n : Nat) : String := "0x" ++ String.ofList (Nat.toDigits 16 n)

/-- The operands of a command as text (R79). -/
def operandText : Instr → String
  | .finit => ""
  | .push b => " " ++ hexText b.toNat
  | .pop => ""
  | .empty => ""
  | .xlat b => " " ++ hexText b.toNat
  | .dinit => ""
  | .irq => ""
  | .read cnt base => " " ++ hexText cnt.toNat ++ ", " ++ hexText base.toNat

/-- `P` or `C` (R79). -/
def agentText : Agent → String
  | .producer => "P"
  | .consumer => "C"

/-- The line's text (R79). The braces around a fixed draw are the characters 123 and 125. -/
def ProgramLine.text : ProgramLine → String
  | .cmd ag i => agentText ag ++ ": " ++ mnemonicOf i ++ operandText i
  | .irqByte b =>
    "P: IRQ " ++ String.ofList [Char.ofNat 123] ++ hexText b.toNat ++ String.ofList [Char.ofNat 125]
  | .readStep => "C: STEP"

end Sys2Proof.Machine
end

