-- ==== Sys2Proof/Safety.lean ====
section
/-! DEFINITION. The terms in which claims are stated: the machine's invariant, launch premises and the end of a run
(70_reset_and_hazards.md R243, R244), and the reference function of an undisturbed READ (42_driver.md R166). -/

namespace Sys2Proof.Machine

/-! ## Runs -/

/-- `k` steps of the machine, stopping at the first fault or refusal. -/
def run : Nat → State → Result
  | 0, s => .next s
  | k + 1, s =>
    match step s with
    | .next t => run k t
    | .fault r => .fault r
    | .refused r => .refused r

/-! ## Reading a history -/

/-- The event is a handler registration. -/
def Event.isRegister : Event → Bool
  | .register _ => true
  | .memWrite _ _ => false
  | .portRead _ _ => false
  | .ack => false

/-- The event is an acknowledgment. -/
def Event.isAck : Event → Bool
  | .ack => true
  | .memWrite _ _ => false
  | .portRead _ _ => false
  | .register _ => false

/-- The event is a port read. -/
def Event.isPortRead : Event → Bool
  | .portRead _ _ => true
  | .memWrite _ _ => false
  | .ack => false
  | .register _ => false

/-- The event is a write to consumer memory. -/
def Event.isMemWrite : Event → Bool
  | .memWrite _ _ => true
  | .portRead _ _ => false
  | .ack => false
  | .register _ => false

/-- The byte a PortRead returned. -/
def Event.portByte : Event → Option Byte
  | .portRead _ b => some b
  | .memWrite _ _ => none
  | .ack => none
  | .register _ => none

/-- A MemWrite event's address is one the launch memory admits (R52); other events write nothing. -/
def Event.admitted (p : Params) : Event → Bool
  | .memWrite a _ => admits p a
  | .portRead _ _ => true
  | .ack => true
  | .register _ => true

/-- A MemWrite event lies in `lo .. lo + n - 1`; other events write nothing. -/
def Event.within (lo n : Nat) : Event → Bool
  | .memWrite a _ => decide (lo ≤ a) && decide (a < lo + n)
  | .portRead _ _ => true
  | .ack => true
  | .register _ => true

/-! ## The spec's own formulations -/

/-- The six invariants of R25 in the spec's words, by number. -/
def State.fifoInvariant (s : State) : Nat → Prop
  | 1 => s.count ≤ s.params.depth
  | 2 => s.head < s.params.depth ∧ s.tail < s.params.depth
  | 3 => s.tail = (s.head + s.count) % s.params.depth
  | 4 => s.count = 0 → s.head = s.tail
  | 5 => s.head = s.tail → s.count = 0 ∨ s.count = s.params.depth
  | 6 => ∀ i, i < s.count → s.mem.read ((s.head + i) % s.params.depth) ≠ none
  | _ => True

/-- T in one piece, transcribed from R128. -/
def assembledT (sc : Byte) (ls rs cp : Bool) : Option Byte × Bool × Bool × Bool :=
  let k := sc.toNat % 128
  if 128 ≤ sc.toNat then
    if k = 0x2A then (none, !ls, rs, cp)
    else if k = 0x36 then (none, ls, !rs, cp)
    else if k = 0x3A then (none, ls, rs, !cp)
    else (none, ls, rs, cp)
  else if k = 0x2A then (none, !ls, rs, cp)
  else if k = 0x36 then (none, ls, !rs, cp)
  else if k = 0x3A then (none, ls, rs, cp)
  else
    let c := romAt baseRomImage k
    if c = 0 then (none, ls, rs, cp)
    else
      let c := if cp = true ∧ 0x61 ≤ c.toNat ∧ c.toNat ≤ 0x7A then BitVec.ofNat 8 (c.toNat - 0x20) else c
      let c := if ls = true ∨ rs = true then romAt shiftRomImage c.toNat else c
      (some c, ls, rs, cp)

/-- The flags after a list of scan codes, translated one after another. -/
def flagsAfter : List Byte → Modifiers → Modifiers
  | [], m => m
  | sc :: scs, m => flagsAfter scs (translate sc m).2

/-- The state without the place its queue has in the storage, and without the contents of a FAULT mark (which records HEAD). -/
def State.unplaced (s : State) : State := { s with mem := [], head := 0, tail := 0, fault := none }

/-- Two states with the same queue that differ at most in where it lies and in what a FAULT mark recorded (R26). -/
def State.SameButPlace (s t : State) : Prop :=
  s.queue = t.queue ∧ s.fault.isSome = t.fault.isSome ∧ s.unplaced = t.unplaced

/-! ## The invariant -/

/-- What every state of a run satisfies: the spec's FIFO invariants (R25), the legal values of R20, the canonical form of
both memories, and the agreement of the history with what it records. -/
structure State.Inv (s : State) : Prop where
  /-- The instance is legal (R9). -/
  params_wf : s.params.wf
  /-- The six invariants of R25 hold. -/
  fifo : s.brokenInvariant = none
  /-- The FIFO storage is in canonical form and has no entry outside `0..N-1` (R50). -/
  mem_wf : s.mem.wf = true
  mem_below : s.mem.below s.params.depth = true
  /-- Consumer memory is in canonical form and has no byte outside `0..2^ADDR_W-1` (R50). -/
  cmem_wf : s.cmem.wf = true
  cmem_below : s.cmem.below (2 ^ s.params.addrW) = true
  /-- Consumer memory is what the history's writes made it (R51, R66). -/
  cmem_replay : s.cmem = replay s.history
  /-- Every write the history records was admitted (R52). -/
  writes_admitted : s.history.all (Event.admitted s.params) = true
  /-- `RD_WRITTEN` is in `0..RD_REQ` (R20). -/
  written_le : s.rdWritten.toNat ≤ s.rdReq.toNat
  /-- `RD_BASE` is ADDR_W bits wide (R20). -/
  base_lt : s.rdBase.toNat < 2 ^ s.params.addrW
  /-- `IRQ_REG` is 1 exactly when the handler has been registered (R31). -/
  irq_reg : s.irqReg = s.history.any Event.isRegister
  /-- No interrupt is serviced before the registration (R31, R155). -/
  no_early_irq : s.irqReg = false → s.history.any Event.isPortRead = false
  /-- One acknowledgment per port read (R155). -/
  acked : s.history.countP Event.isAck = s.history.countP Event.isPortRead
  /-- At most one outcome mark is set (R200). -/
  one_mark : s.fault = none ∨ s.refused = none

/-! ## Launch premises and the end of a run (R243, R244) -/

/-- `reset_state`: the value of every element that R36 specifies. RD_BASE, RD_REQ and RD_WRITTEN are unspecified there. -/
def State.ResetState (s : State) : Prop :=
  s.mem = [] ∧ s.head = 0 ∧ s.tail = 0 ∧ s.count = 0 ∧ s.mods = Modifiers.clear ∧ s.irqReg = false ∧
  s.rdActive = false ∧ s.fault = none ∧ s.refused = none ∧ s.history = [] ∧ s.cmem = []

/-- `driver_started`: the reset state after exactly one DINIT. -/
def State.DriverStarted (s : State) : Prop :=
  s.mem = [] ∧ s.head = 0 ∧ s.tail = 0 ∧ s.count = 0 ∧ s.mods = Modifiers.clear ∧ s.irqReg = true ∧
  s.rdActive = false ∧ s.fault = none ∧ s.refused = none ∧ s.history = [.register s.params.irqLine] ∧ s.cmem = []

/-- `no_mark`. -/
def State.NoMark (s : State) : Prop := s.fault = none ∧ s.refused = none

/-- `consumer_idle`. -/
def State.ConsumerIdle (s : State) : Prop := s.rdActive = false

/-- `irq_budget(k, bytes)`: at most `k` IRQ steps happen during the run from this state, and the port answers them with `bytes` in
order. Each IRQ step that happens, and nothing else, records one PortRead (R155); an IRQ that is not enabled is no step (R204)
and uses none of the budget. -/
def State.IrqBudget (k : Nat) (bytes : List Byte) (s : State) : Prop :=
  ∀ (n : Nat) (t : State), run n s = .next t →
    ∃ new, t.history = s.history ++ new ∧ (new.filterMap Event.portByte).length ≤ k ∧
      new.filterMap Event.portByte <+: bytes

/-- `mem_admits(base, n)`. -/
def MemAdmits (p : Params) (base n : Nat) : Prop := ∀ k, k < n → admits p (base + k) = true

/-- The attempt is a command of the Consumer's. A READ step is not a command (R79, R207), so one left over is none. -/
def Attempt.isConsumerCommand : Attempt → Bool
  | .issue ag _ _ => ag == .consumer
  | .readStep => false

/-- The end of a run (R243): no mark, no open READ call, and no Consumer command left. -/
def State.Ended (s : State) : Prop :=
  s.fault = none ∧ s.refused = none ∧ s.rdActive = false ∧ ∀ a ∈ s.inbox, a.isConsumerCommand = false

/-! ## The reference function of R166 -/

/-- READ alone: from a request, a queue and flags, the characters written, the codes left in the queue, the final flags. -/
def readReference : Nat → List Byte → Modifiers → List Byte × List Byte × Modifiers
  | _, [], m => ([], [], m)
  | n, q :: qs, m =>
    if n = 0 then ([], q :: qs, m)
    else
      match (translate q m).1 with
      | none => readReference n qs (translate q m).2
      | some c =>
        let r := readReference (n - 1) qs (translate q m).2
        (c :: r.1, r.2)

/-- The characters a list of scan codes gives, translated one after another: T's SOME results in order (R165, R166). -/
def charsOf : List Byte → Modifiers → List Byte
  | [], _ => []
  | sc :: scs, m => (translate sc m).1.toList ++ charsOf scs (translate sc m).2

/-- The events of writing a run of bytes to consecutive ascending addresses (R51, R163). -/
def writeEvents : Nat → List Byte → List Event
  | _, [] => []
  | a, c :: cs => .memWrite a c :: writeEvents (a + 1) cs

/-- Writing a run of bytes to consecutive ascending addresses (R51). -/
def writeAll : Memory → Nat → List Byte → Memory
  | m, _, [] => m
  | m, a, c :: cs => writeAll (Memory.write m a c) (a + 1) cs

/-! ## What a run does -/

/-- The bytes a step put into the FIFO: the byte at the old TAIL, where COUNT rose (R60, R61). -/
def enteredBy (s t : State) : List Byte := if t.count = s.count + 1 then (t.mem.read s.tail).toList else []

/-- The bytes a step took out of the FIFO: the byte at the old HEAD, where COUNT fell by one (R60, R61). -/
def leftBy (s t : State) : List Byte := if t.count + 1 = s.count then (s.mem.read s.head).toList else []

/-- The bytes that enter and the bytes that leave over `k` steps, each in order. -/
def traffic : Nat → State → List Byte × List Byte
  | 0, _ => ([], [])
  | k + 1, s =>
    match step s with
    | .next t => (enteredBy s t ++ (traffic k t).1, leftBy s t ++ (traffic k t).2)
    | .fault _ => ([], [])
    | .refused _ => ([], [])

/-- Run commands one after another through `exec`, each issued by its own agent; `none` if one gives no next state. -/
def execAll : List Instr → State → Option State
  | [], s => some s
  | i :: is, s =>
    match exec i (s.issuedBy i.agent) with
    | .next t => execAll is t
    | .fault _ => none
    | .refused _ => none

end Sys2Proof.Machine
end

