-- ==== Sys2Proof/Certificates/Slice0/Obligations.lean ====
section
/-! DEFINITION. The statements for the provers. Each names the rule of spec/ it formalises. Statements about one command or one
READ step give the whole next state, so that they are result, frame and completion in one: every field the record update does
not name is unchanged. -/

open Sys2Proof Sys2Proof.Machine

/-! ## Encoding (30_encoding.md) -/

/-- R81: the words of each form, the illegal words, and the serialised bytes. -/
def Obligations.SpecEncodingExamples : Prop :=
  encode .finit = ⟨0x01000000, none⟩ ∧ encode (.push 0x1E) = ⟨0x0200001E, none⟩ ∧ encode .pop = ⟨0x03000000, none⟩ ∧
  encode .empty = ⟨0x04000000, none⟩ ∧ encode (.xlat 0xBA) = ⟨0x050000BA, none⟩ ∧ encode .dinit = ⟨0x06000000, none⟩ ∧
  encode .irq = ⟨0x07000000, none⟩ ∧ encode (.read 16 0x1000) = ⟨0x08000010, some 0x00001000⟩ ∧
  encode (.read 0 0) = ⟨0x08000000, some 0x00000000⟩ ∧
  decode 32 ⟨0x01000000, none⟩ = .ok .finit ∧ decode 32 ⟨0x0200001E, none⟩ = .ok (.push 0x1E) ∧
  decode 32 ⟨0x03000000, none⟩ = .ok .pop ∧ decode 32 ⟨0x04000000, none⟩ = .ok .empty ∧
  decode 32 ⟨0x050000BA, none⟩ = .ok (.xlat 0xBA) ∧ decode 32 ⟨0x06000000, none⟩ = .ok .dinit ∧
  decode 32 ⟨0x07000000, none⟩ = .ok .irq ∧
  decode 32 ⟨0x08000010, some 0x00001000⟩ = .ok (.read 16 0x1000) ∧
  decode 32 ⟨0x08000000, some 0x00000000⟩ = .ok (.read 0 0) ∧
  (∀ w ∈ [(0x00000000 : Word), 0x09000000, 0x03000001, 0x02000100], ∀ i, decode 32 ⟨w, none⟩ ≠ .ok i) ∧
  encodeBytes (.xlat 0xBA) = [0xBA, 0x00, 0x00, 0x05]

/-- Every well-formed command, with every operand value, decodes to itself (R72 to R76). -/
def Obligations.DecodeOfEncodeIsIdentity : Prop :=
  ∀ (addrW : Nat) (i : Instr), i.wellFormed addrW = true → decode addrW (encode i) = .ok i

/-- A command that decodes is the encoding of exactly that command: no bit of its words is ignored (R77). -/
def Obligations.EncodeOfDecodeIsIdentity : Prop :=
  ∀ (addrW : Nat) (c : Command) (i : Instr), decode addrW c = .ok i →
    (encode i).words = c.words ∧ i.wellFormed addrW = true

/-- The byte-serial form: little-endian words, the length decided by OP, the bytes after the command left over (R53, R70, R71). -/
def Obligations.ByteStreamDecodesToTheCommand : Prop :=
  ∀ (addrW : Nat) (i : Instr) (rest : List Byte), i.wellFormed addrW = true →
    decodeBytes addrW (encodeBytes i ++ rest) = .ok (i, rest) ∧
    (encodeBytes i).length = 4 * wordCount (encode i).w0

/-- The illegal encodings are exactly R77's five cases, for a command that brings its extension word when OP asks for one.
That a surplus second word of a one-word command is ignored (R71) is the model's reading: log entry 6. -/
def Obligations.IllegalEncodingsAreTheFiveCases : Prop :=
  ∀ (addrW : Nat) (c : Command), (opOf c.w0 = 0x08 → c.w1 ≠ none) →
    ((∃ e, decode addrW c = .error e) ↔
      opOf c.w0 = 0x00 ∨ 0x09 ≤ (opOf c.w0).toNat ∨
      ((opOf c.w0 = 0x01 ∨ opOf c.w0 = 0x03 ∨ opOf c.w0 = 0x04 ∨ opOf c.w0 = 0x06 ∨ opOf c.w0 = 0x07) ∧
        c.w0.toNat % 2 ^ 24 ≠ 0) ∨
      ((opOf c.w0 = 0x02 ∨ opOf c.w0 = 0x05) ∧ c.w0.toNat / 2 ^ 8 % 2 ^ 16 ≠ 0) ∨
      (opOf c.w0 = 0x08 ∧ ∃ base, c.w1 = some base ∧ base.toNat / 2 ^ addrW ≠ 0))

/-- The decoder is R76's match and mask table: a word in a row decodes to that row's command, a decoded word lies in its row, and
no two rows match the same word. A command whose OP is 0x08 brings its second word; for the others the second word may be there
or not (that a surplus one is ignored, R71, is the model's reading: log entry 6). -/
def Obligations.DecoderFollowsMatchMaskTable : Prop :=
  (∀ (w0 : Word) (w1 : Option Word) (i : Instr), decode 32 ⟨w0, w1⟩ = .ok i →
    i.row ∈ opTable ∧ w0 &&& i.row.mask = i.row.pattern) ∧
  (∀ (w0 : Word) (w1 : Option Word) (r : OpRow), r ∈ opTable → w0 &&& r.mask = r.pattern → (opOf w0 = 0x08 → w1 ≠ none) →
    ∃ i, decode 32 ⟨w0, w1⟩ = .ok i ∧ i.row = r) ∧
  (∀ (w0 : Word) (r q : OpRow), r ∈ opTable → q ∈ opTable → w0 &&& r.mask = r.pattern → w0 &&& q.mask = q.pattern → r = q)

/-! ## One step (00_scope.md R7, 60_exceptions.md R200 to R207) -/

/-- A step runs the decoded command: with no mark, the invariants holding and the scheduler's next choice a legal command, `step` is
`exec` of that command after the choice has been taken off the schedule, its agent and the port's answer to it noted; where the choice
is the Consumer's READ step, `step` is that READ step (R162, R207: checks 3 to 5 do not apply to it).
The schedule as a list in State and the port's answer beside it are the model's choices: log entries 1 and 10. -/
def Obligations.StepRunsTheDecodedCommand : Prop :=
  ∀ (s : State) (rest : List Attempt), s.fault = none → s.refused = none → s.brokenInvariant = none →
    (∀ ag c b i, s.inbox = .issue ag c b :: rest → decode s.params.addrW c = .ok i →
      step s = exec i { s with inbox := rest, issuer := ag, portAnswer := b }) ∧
    (s.inbox = .readStep :: rest →
      step s = execReadStep { s with inbox := rest, issuer := .consumer, portAnswer := none })

/-- R77, R201: an illegal command faults F_ILLEGAL_CMD with its words recorded, whichever agent issued it and whether or not the
Consumer is busy; the step makes no other change. -/
def Obligations.IllegalCommandFaults : Prop :=
  ∀ (s : State) (ag : Agent) (c : Command) (b : Option Byte) (rest : List Attempt) (e : DecodeError),
    s.fault = none → s.refused = none → s.brokenInvariant = none → s.inbox = .issue ag c b :: rest →
    decode s.params.addrW c = .error e →
    step s = .next { s with
      inbox := rest, issuer := ag, portAnswer := b, fault := some ⟨.illegalCmd c.words, ag, c.words⟩, last := some .faulted }

/-- R201, D14: the number F_INVARIANT records is that of the lowest-numbered invariant of R25 that fails. -/
def Obligations.BrokenInvariantIsTheLowestNumbered : Prop :=
  ∀ s : State,
    (s.brokenInvariant = none ↔ ∀ k, s.fifoInvariant k) ∧
    (∀ n, s.brokenInvariant = some n ↔ ¬ s.fifoInvariant n ∧ ∀ k, k < n → s.fifoInvariant k)

/-- R207 check 2: any attempt in a state that breaks an invariant faults F_INVARIANT before anything else is looked at.
That a READ step's mark names the Consumer and no words is the model's reading: log entry 5. -/
def Obligations.BrokenInvariantFaultsEveryAttempt : Prop :=
  ∀ (s : State) (a : Attempt) (rest : List Attempt) (n : Nat),
    s.fault = none → s.refused = none → s.brokenInvariant = some n → s.inbox = a :: rest →
    step s = .next { s with
      inbox := rest, issuer := a.agent, portAnswer := a.answer, fault := some ⟨.invariant n, a.agent, a.words⟩,
      last := some .faulted }

/-- R33, R202, R203, R207 check 1: a state with FAULT or REFUSED set has no step for any agent.
The two stops are the model's form of "no step": log entry 4. -/
def Obligations.MarkedStateHasNoStep : Prop :=
  ∀ s : State,
    (∀ m, s.fault = some m → step s = .fault (.marked m)) ∧
    (∀ m, s.fault = none → s.refused = some m → step s = .refused (.marked m))

/-- R202: a faulting step writes no element of the rule it was running, records code, agent and command words, appends no event;
the state it leaves has no step and is not an ended run (R243).
That the mark of a READ step names the Consumer and no words is the model's reading: log entry 5. -/
def Obligations.FaultEntryIsPrecise : Prop :=
  ∀ (s t : State) (m : FaultMark), s.fault = none → step s = .next t → t.fault = some m →
    (∃ a rest, s.inbox = a :: rest ∧ m.agent = a.agent ∧ m.words = a.words ∧
      t = { s with inbox := rest, issuer := a.agent, portAnswer := a.answer, fault := some m, last := some .faulted }) ∧
    (∀ u, step t ≠ .next u) ∧ ¬ t.Ended

/-- R203: the three refusals: when each is given, that it sets REFUSED to (reason, agent, command words) and changes nothing else,
and that the state it leaves has no step. -/
def Obligations.RefusalEntryChangesOnlyTheMark : Prop :=
  ∀ (s t : State) (m : RefusalMark), s.refused = none → step s = .next t → t.refused = some m →
    (∃ ag c b rest i, s.inbox = .issue ag c b :: rest ∧ decode s.params.addrW c = .ok i ∧ m.agent = ag ∧ m.words = c.words ∧
      t = { s with inbox := rest, issuer := ag, portAnswer := b, refused := some m, last := some .refused } ∧
      (m.reason = .wrongAgent ↔ ag ≠ i.agent) ∧
      (m.reason = .consumerBusy ↔ ag = i.agent ∧ ag = .consumer ∧ s.rdActive = true) ∧
      (m.reason = .doubleInit ↔ ag = i.agent ∧ s.rdActive = false ∧ i = .dinit ∧ s.irqReg = true)) ∧
    (∀ u, step t ≠ .next u)

/-- R200: every attempted step from an unmarked state has exactly one of the four outcomes, and the state after is the one R200
gives: a fault or a refusal sets its mark alone, no step leaves the state unchanged.
That an attempt which is not enabled is a next state, taken off the schedule, is the model's choice: log entry 3. -/
def Obligations.EveryAttemptHasOneOfFourOutcomes : Prop :=
  ∀ (s : State) (a : Attempt) (rest : List Attempt),
    s.fault = none → s.refused = none → s.inbox = a :: rest →
    ∃ t, step s = .next t ∧ t.inbox = rest ∧ t.issuer = a.agent ∧
      ((t.last = some .ran ∧ t.fault = none ∧ t.refused = none) ∨
       (∃ m, t = { s with
          inbox := rest, issuer := a.agent, portAnswer := a.answer, fault := some m, last := some .faulted }) ∨
       (∃ m, t = { s with
          inbox := rest, issuer := a.agent, portAnswer := a.answer, refused := some m, last := some .refused }) ∨
       t = { s with inbox := rest, issuer := a.agent, portAnswer := a.answer, last := some .noStep })

/-! ## Refusals of an issued command (R203, R207 checks 4 and 5) -/

/-- A command issued by an agent that is not its own is refused WRONG_AGENT, before the busy check and the command's own checks. -/
def Obligations.WrongAgentIsRefused : Prop :=
  ∀ (i : Instr) (s : State), s.issuer ≠ i.agent →
    exec i s = .next { s with refused := some ⟨.wrongAgent, s.issuer, (encode i).words⟩, last := some .refused }

/-- Any command the Consumer issues while RD_ACTIVE = 1 is refused CONSUMER_BUSY, before the command's own checks. -/
def Obligations.BusyConsumerIsRefused : Prop :=
  ∀ (i : Instr) (s : State), i.agent = .consumer → s.issuer = .consumer → s.rdActive = true →
    exec i s = .next { s with refused := some ⟨.consumerBusy, .consumer, (encode i).words⟩, last := some .refused }

/-! ## What each command does -/

/-- R101: FINIT sets HEAD, TAIL and COUNT to 0, leaves the storage as it is and answers 0. -/
def Obligations.FinitEmptiesTheFifo : Prop :=
  ∀ s : State, s.issuer = .consumer → s.rdActive = false →
    exec .finit s = .next { s with
      head := 0, tail := 0, count := 0, responses := s.responses ++ [⟨.consumer, 0⟩], last := some .ran }

/-- R102: PUSH b appends b when there is room and answers ok = 1; on a full FIFO it changes no state element and answers ok = 0.
It needs neither `IRQ_REG` nor an idle Consumer. -/
def Obligations.PushAppendsOrDrops : Prop :=
  ∀ (s : State) (b : Byte), s.issuer = .producer →
    (s.count ≠ s.params.depth →
      exec (.push b) s = .next { s with
        mem := s.mem.write s.tail b, tail := (s.tail + 1) % s.params.depth, count := s.count + 1,
        responses := s.responses ++ [⟨.producer, 1⟩], last := some .ran }) ∧
    (s.count = s.params.depth →
      exec (.push b) s = .next { s with responses := s.responses ++ [⟨.producer, 0⟩], last := some .ran })

/-- R103: POP returns the entry at HEAD and advances HEAD; an empty FIFO faults F_POP_EMPTY recording HEAD; an unwritten entry faults
F_INVARIANT with number 6. -/
def Obligations.PopReturnsTheOldestOrFaults : Prop :=
  ∀ s : State, s.issuer = .consumer → s.rdActive = false →
    (∀ v, s.count ≠ 0 → s.mem.read s.head = some v →
      exec .pop s = .next { s with
        head := (s.head + 1) % s.params.depth, count := s.count - 1,
        responses := s.responses ++ [⟨.consumer, v.setWidth 32⟩], last := some .ran }) ∧
    (s.count = 0 →
      exec .pop s = .next { s with
        fault := some ⟨.popEmpty s.head, .consumer, [0x03000000]⟩, last := some .faulted }) ∧
    (s.count ≠ 0 → s.mem.read s.head = none →
      exec .pop s = .next { s with
        fault := some ⟨.invariant 6, .consumer, [0x03000000]⟩, last := some .faulted })

/-- R104: EMPTY answers 1 exactly when COUNT = 0, and changes no state. -/
def Obligations.EmptyTestsCountAlone : Prop :=
  ∀ s : State, s.issuer = .consumer → s.rdActive = false →
    (s.count = 0 →
      exec .empty s = .next { s with responses := s.responses ++ [⟨.consumer, 1⟩], last := some .ran }) ∧
    (s.count ≠ 0 →
      exec .empty s = .next { s with responses := s.responses ++ [⟨.consumer, 0⟩], last := some .ran })

/-- R121: XLAT b applies T to the current flags, writes the new flags back, and answers valid ++ character, or 0 for NONE. -/
def Obligations.XlatAppliesT : Prop :=
  ∀ (s : State) (b : Byte), s.issuer = .consumer → s.rdActive = false →
    (∀ c m, translate b s.mods = (some c, m) →
      exec (.xlat b) s = .next { s with
        mods := m, responses := s.responses ++ [⟨.consumer, BitVec.ofNat 32 (0x100 + c.toNat)⟩], last := some .ran }) ∧
    (∀ m, translate b s.mods = (none, m) →
      exec (.xlat b) s = .next { s with
        mods := m, responses := s.responses ++ [⟨.consumer, 0⟩], last := some .ran })

/-- R150: the first DINIT empties the FIFO, clears the flags, registers the handler and answers status 0; with IRQ_REG = 1 it is
refused DOUBLE_INIT. -/
def Obligations.DinitStartsTheDriverOnce : Prop :=
  ∀ s : State, s.issuer = .consumer → s.rdActive = false →
    (s.irqReg = false →
      exec .dinit s = .next { s with
        head := 0, tail := 0, count := 0, mods := ⟨false, false, false⟩, irqReg := true,
        history := s.history ++ [.register s.params.irqLine],
        responses := s.responses ++ [⟨.consumer, 0⟩], last := some .ran }) ∧
    (s.irqReg = true →
      exec .dinit s = .next { s with
        refused := some ⟨.doubleInit, .consumer, [0x06000000]⟩, last := some .refused })

/-- R155, R206: once the handler is registered, IRQ reads one byte from the port, pushes it or drops it, and acknowledges, all in one
step, whether or not the Consumer is inside READ. The byte is the answer the attempt fixes, or the free draw where it fixes none
(the two forms of the port are the model's: log entry 10). Before DINIT the Producer has no IRQ step (R204): no draw, no
acknowledgment, no response, no mark. -/
def Obligations.IrqReadsPushesAcknowledges : Prop :=
  ∀ (s : State) (b : Byte), s.issuer = .producer → b = s.portAnswer.getD (Config.portDraw s.drawIndex) →
    (s.irqReg = false → exec .irq s = .next { s with last := some .noStep }) ∧
    (s.irqReg = true → s.count ≠ s.params.depth →
      exec .irq s = .next { s with
        mem := s.mem.write s.tail b, tail := (s.tail + 1) % s.params.depth, count := s.count + 1,
        history := s.history ++ [.portRead s.params.dataPort b, .ack],
        portAnswer := none, drawIndex := s.drawIndex + 1,
        responses := s.responses ++ [⟨.producer, BitVec.ofNat 32 (1 + 256 * b.toNat)⟩], last := some .ran }) ∧
    (s.irqReg = true → s.count = s.params.depth →
      exec .irq s = .next { s with
        history := s.history ++ [.portRead s.params.dataPort b, .ack],
        portAnswer := none, drawIndex := s.drawIndex + 1,
        responses := s.responses ++ [⟨.producer, BitVec.ofNat 32 (256 * b.toNat)⟩], last := some .ran })

/-- R156: IRQ is the PortRead, then PUSH of the byte read, then Ack, as one step: it leaves what `P: PUSH b` leaves, and beside that the
two events, the port's answer used up, and the byte in bits 15:8 of the response.
The form of the port's answer is the model's: log entry 10. -/
def Obligations.IrqIsPortReadPushAck : Prop :=
  ∀ (s t u : State) (b : Byte), s.issuer = .producer → s.irqReg = true →
    b = s.portAnswer.getD (Config.portDraw s.drawIndex) → exec (.push b) s = .next u → exec .irq s = .next t →
    ∃ ok : Word, u.responses = s.responses ++ [⟨.producer, ok⟩] ∧
      t = { u with
        history := s.history ++ [.portRead s.params.dataPort b, .ack],
        portAnswer := none, drawIndex := s.drawIndex + 1,
        responses := s.responses ++ [⟨.producer, ok + 256 * b.setWidth 32⟩] }

/-- R160: READ's issue writes the four call registers and gives no response yet. -/
def Obligations.ReadBeginsTheCall : Prop :=
  ∀ (s : State) (cnt : Count24) (base : Word), s.issuer = .consumer → s.rdActive = false →
    exec (.read cnt base) s = .next { s with
      rdActive := true, rdBase := base, rdReq := cnt, rdWritten := 0, last := some .ran }

/-! ## READ steps (R162 to R164) -/

/-- R163: the iteration pops, translates, writes the flags back, and writes the character, if there is one, to `RD_BASE + RD_WRITTEN`;
if that write is not admitted the step does not exist and nothing changes; an unwritten entry faults F_INVARIANT with number 6 (that the
mark of a READ step names the Consumer and no words is the model's reading: log entry 5).
That the attempt without an admitted write is a next state, the block unchanged, is log entry 3; that an unwritten entry faults
whether or not a write there would be admitted is log entry 13. -/
def Obligations.ReadIterationPopsTranslatesWrites : Prop :=
  ∀ s : State, s.rdActive = true → s.rdWritten.toNat < s.rdReq.toNat → 0 < s.count →
    (∀ v m, s.mem.read s.head = some v → translate v s.mods = (none, m) →
      execReadStep s = .next { s with
        head := (s.head + 1) % s.params.depth, count := s.count - 1, mods := m, last := some .ran }) ∧
    (∀ v c m, s.mem.read s.head = some v → translate v s.mods = (some c, m) →
      (admits s.params (s.rdBase.toNat + s.rdWritten.toNat) = true →
        execReadStep s = .next { s with
          head := (s.head + 1) % s.params.depth, count := s.count - 1, mods := m,
          cmem := s.cmem.write (s.rdBase.toNat + s.rdWritten.toNat) c,
          history := s.history ++ [.memWrite (s.rdBase.toNat + s.rdWritten.toNat) c],
          rdWritten := s.rdWritten + 1, last := some .ran }) ∧
      (admits s.params (s.rdBase.toNat + s.rdWritten.toNat) = false →
        execReadStep s = .next { s with last := some .noStep })) ∧
    (s.mem.read s.head = none →
      execReadStep s = .next { s with fault := some ⟨.invariant 6, .consumer, []⟩, last := some .faulted })

/-- R164: the completion, enabled when RD_WRITTEN = RD_REQ or COUNT = 0, clears RD_ACTIVE and returns RD_WRITTEN. -/
def Obligations.ReadCompletionReturnsTheCount : Prop :=
  ∀ s : State, s.rdActive = true → (s.rdWritten = s.rdReq ∨ s.count = 0) →
    execReadStep s = .next { s with
      rdActive := false, responses := s.responses ++ [⟨.consumer, s.rdWritten.setWidth 32⟩], last := some .ran }

/-- R79, R162 to R164: while a call is open (in a state whose RD_WRITTEN is at most RD_REQ, as in every run) a READ step is the iteration
or the completion, whichever's condition holds, and exactly one holds; no step is taken exactly where it is the iteration and the
character may not be written (R52, R204). The Producer's commands run meanwhile and leave the call as it is. Outside a call there is
no READ step. That an attempt which is not enabled is a next state is log entry 3; that a READ step outside a call is such an
attempt is log entry 17. -/
def Obligations.ReadStepIsTheIterationOrTheCompletion : Prop :=
  ∀ s : State,
    (s.rdActive = false → execReadStep s = .next { s with last := some .noStep }) ∧
    (s.rdActive = true → s.rdWritten.toNat ≤ s.rdReq.toNat →
      s.completes = (!s.iterates) ∧
      (s.iterates = true ↔ s.rdWritten.toNat < s.rdReq.toNat ∧ 0 < s.count) ∧
      (s.completes = true ↔ s.rdWritten = s.rdReq ∨ s.count = 0) ∧
      (s.iterates = true → execReadStep s = .next (readIteration s)) ∧
      (s.completes = true → execReadStep s = .next (readCompletion s)) ∧
      (execReadStep s = .next { s with last := some .noStep } ↔
        s.iterates = true ∧ ∃ v c, s.mem.read s.head = some v ∧ (translate v s.mods).1 = some c ∧
          admits s.params (s.rdBase.toNat + s.rdWritten.toNat) = false) ∧
      (∀ i, i.agent = .producer → s.issuer = .producer → (i = .irq → s.irqReg = true) →
        ∃ t, exec i s = .next t ∧ t.last = some .ran ∧ t.rdActive = true ∧ t.rdBase = s.rdBase ∧ t.rdReq = s.rdReq ∧
          t.rdWritten = s.rdWritten))

/-- R32, R164, U13: RD_BASE, RD_REQ and RD_WRITTEN are not read while RD_ACTIVE = 0. A run from a state outside a call ends in the same
state, with the same stop, whatever the three registers held; they are still what they were only if no READ was begun.
So no run depends on the values the model's reset gives them: log entry 7. -/
def Obligations.CallRegistersAreNotReadOutsideACall : Prop :=
  ∀ (k : Nat) (s : State) (base : Word) (req written : Count24), s.rdActive = false →
    (∀ t, run k s = .next t →
      run k { s with rdBase := base, rdReq := req, rdWritten := written } = .next t ∨
      (t.rdActive = false ∧ t.rdBase = s.rdBase ∧ t.rdReq = s.rdReq ∧ t.rdWritten = s.rdWritten ∧
        run k { s with rdBase := base, rdReq := req, rdWritten := written } =
          .next { t with rdBase := base, rdReq := req, rdWritten := written })) ∧
    (∀ m, run k s = .fault m → run k { s with rdBase := base, rdReq := req, rdWritten := written } = .fault m) ∧
    (∀ m, run k s = .refused m → run k { s with rdBase := base, rdReq := req, rdWritten := written } = .refused m)

/-! ## Frames -/

/-- R100: a FIFO command touches only MEM, HEAD, TAIL and COUNT of the block; a PUSH changes at most the byte at TAIL, and the three
others change no byte of storage. It writes no consumer memory, reads no port and acknowledges nothing. -/
def Obligations.FifoCommandsTouchOnlyTheFifo : Prop :=
  ∀ (i : Instr) (s t : State), (i = .finit ∨ i = .pop ∨ i = .empty ∨ ∃ b, i = .push b) → exec i s = .next t →
    t.mods = s.mods ∧ t.irqReg = s.irqReg ∧ t.rdActive = s.rdActive ∧ t.rdBase = s.rdBase ∧ t.rdReq = s.rdReq ∧
    t.rdWritten = s.rdWritten ∧ t.history = s.history ∧ t.params = s.params ∧ t.inbox = s.inbox ∧
    t.portAnswer = s.portAnswer ∧ t.drawIndex = s.drawIndex ∧
    (∀ a, t.cmem.read a = s.cmem.read a) ∧
    (∀ a, (a ≠ s.tail ∨ i.agent = .consumer) → t.mem.read a = s.mem.read a)

/-- The frame of the commands that store no byte anywhere: every byte of the FIFO storage and of consumer memory reads as before. -/
def Obligations.NonStoringCommandsKeepEveryByte : Prop :=
  ∀ (i : Instr) (s t : State), i.agent = .consumer → exec i s = .next t →
    (∀ a, t.mem.read a = s.mem.read a) ∧ (∀ a, t.cmem.read a = s.cmem.read a) ∧ t.params = s.params ∧
    t.portAnswer = s.portAnswer ∧ t.drawIndex = s.drawIndex

/-- The frame of the two storing commands, PUSH and IRQ: only the byte at TAIL can change, and only when COUNT rises; HEAD, the flags,
the READ registers, IRQ_REG and consumer memory stay (R61, R209). -/
def Obligations.ProducerStoresOnlyAtTail : Prop :=
  ∀ (i : Instr) (s t : State), i.agent = .producer → exec i s = .next t →
    (∀ a, a ≠ s.tail → t.mem.read a = s.mem.read a) ∧ (t.count = s.count → t.mem = s.mem ∧ t.tail = s.tail) ∧
    (t.count = s.count ∨ t.count = s.count + 1) ∧
    t.head = s.head ∧ t.mods = s.mods ∧ t.rdActive = s.rdActive ∧ t.rdBase = s.rdBase ∧ t.rdReq = s.rdReq ∧
    t.rdWritten = s.rdWritten ∧ t.irqReg = s.irqReg ∧ t.cmem = s.cmem ∧ t.params = s.params

/-- The frame of a READ step: at most the byte of consumer memory at `RD_BASE + RD_WRITTEN` changes; no byte of storage, not TAIL, not
IRQ_REG, not RD_BASE and not RD_REQ. -/
def Obligations.ReadStepWritesOnlyTheOutputByte : Prop :=
  ∀ s t : State, execReadStep s = .next t →
    (∀ a, a ≠ s.rdBase.toNat + s.rdWritten.toNat → t.cmem.read a = s.cmem.read a) ∧
    t.mem = s.mem ∧ t.tail = s.tail ∧ t.irqReg = s.irqReg ∧ t.rdBase = s.rdBase ∧ t.rdReq = s.rdReq ∧
    t.params = s.params ∧ t.portAnswer = s.portAnswer ∧ t.drawIndex = s.drawIndex ∧ t.refused = s.refused

/-- R61: the ownership discipline, over every step of the machine: a Producer step never writes HEAD and never lowers COUNT; a Consumer
step never writes MEM, and writes TAIL or raises COUNT only by emptying the FIFO (FINIT, DINIT). -/
def Obligations.OwnershipDisciplineHolds : Prop :=
  ∀ (s t : State) (a : Attempt) (rest : List Attempt), s.inbox = a :: rest → step s = .next t →
    (a.agent = .producer → t.head = s.head ∧ t.mods = s.mods ∧ (t.count = s.count ∨ t.count = s.count + 1)) ∧
    (a.agent = .consumer → t.mem = s.mem ∧
      ((t.tail = s.tail ∧ (t.count = s.count ∨ (0 < s.count ∧ t.count + 1 = s.count))) ∨
       ((a.words = (encode .finit).words ∨ a.words = (encode .dinit).words) ∧ t.head = 0 ∧ t.tail = 0 ∧ t.count = 0)))

/-- R61: "A Producer step never reads `HEAD`" and "A Consumer pop never reads `TAIL`": with another HEAD the Producer's command does the
same, HEAD apart; with another TAIL a POP, and a READ step, do the same, TAIL apart. -/
def Obligations.NeitherAgentReadsTheOthersIndex : Prop :=
  ∀ (s t : State) (x : Nat),
    (∀ i : Instr, i.agent = .producer → exec i s = .next t → exec i { s with head := x } = .next { t with head := x }) ∧
    (exec .pop s = .next t → exec .pop { s with tail := x } = .next { t with tail := x }) ∧
    (execReadStep s = .next t → execReadStep { s with tail := x } = .next { t with tail := x })

/-- R28, R253: only the Consumer's XLAT, DINIT and READ iterations change a modifier flag. -/
def Obligations.ModifiersChangeOnlyByTranslation : Prop :=
  ∀ s t : State, step s = .next t → t.mods ≠ s.mods →
    ∃ a rest, s.inbox = a :: rest ∧
      (a = .readStep ∨ (∃ b, a.agent = .consumer ∧ a.words = (encode (.xlat b)).words) ∨
       (a.agent = .consumer ∧ a.words = (encode .dinit).words ∧ t.mods = ⟨false, false, false⟩))

/-- R31: IRQ_REG becomes 1 only by DINIT, nothing clears it, and while it is 0 no step reads the port or acknowledges. -/
def Obligations.IrqRegIsSetByDinitAndNeverCleared : Prop :=
  State.reset.irqReg = false ∧
  ∀ s t : State, step s = .next t →
    (s.irqReg = true → t.irqReg = true) ∧
    (s.irqReg = false → t.irqReg = true →
      ∃ c b rest, s.inbox = .issue .consumer c b :: rest ∧ c.words = (encode .dinit).words) ∧
    (s.irqReg = false → ∀ e ∈ t.history.drop s.history.length, e.isPortRead = false ∧ e.isAck = false)

/-- R34: the history is empty at reset, and every step only appends to it. -/
def Obligations.HistoryOnlyGrows : Prop :=
  State.reset.history = [] ∧ ∀ s t : State, step s = .next t → ∃ new, t.history = s.history ++ new

/-! ## Invariants -/

/-- R36, R240, R27: what reset leaves: every element R36 specifies, EMPTY = 1 and FULL = 0, no entry written. -/
def Obligations.ResetLeavesTheSpecifiedValues : Prop :=
  (∀ a, State.reset.mem.read a = none) ∧ State.reset.head = 0 ∧ State.reset.tail = 0 ∧ State.reset.count = 0 ∧
  State.reset.isEmpty = true ∧ State.reset.isFull = false ∧ State.reset.mods = ⟨false, false, false⟩ ∧
  State.reset.irqReg = false ∧ State.reset.rdActive = false ∧ State.reset.fault = none ∧ State.reset.refused = none ∧
  State.reset.history = []

/-- The invariant holds at reset.
For RD_BASE, RD_REQ and RD_WRITTEN it rests on the model's reset value 0: log entry 7. -/
def Obligations.ResetMeetsTheInvariant : Prop := State.reset.Inv

/-- Every step keeps the invariant: the FIFO invariants of R25, the legal values of R20, both memories' canonical form and bounds,
consumer memory as the history's admitted writes made it, one acknowledgment per port read, none before registration. -/
def Obligations.EveryStepKeepsTheInvariant : Prop :=
  ∀ s t : State, s.Inv → step s = .next t → t.Inv

/-- R25: every state reachable from reset, for every legal instance, schedule and port, satisfies all six FIFO invariants. -/
def Obligations.ReachableStatesMeetFifoInvariants : Prop :=
  ∀ (k : Nat) (s t : State), s.ResetState → s.params.wf → run k s = .next t → ∀ n, t.fifoInvariant n

/-- R201: "No run of the rules reaches it": from a state that meets the invariant no run faults F_INVARIANT. -/
def Obligations.InvariantFaultIsUnreachable : Prop :=
  ∀ (k : Nat) (s t : State) (m : FaultMark) (n : Nat),
    s.Inv → s.fault = none → run k s = .next t → t.fault = some m → m.cause ≠ .invariant n

/-- R10, R105: HEAD and TAIL fit IDX_W bits and COUNT fits CNT_W bits; the widths for N = 4 and N = 16 are those R10 gives. -/
def Obligations.IndicesAndCountFitTheirWidths : Prop :=
  (∀ s : State, s.Inv →
    s.head < 2 ^ idxWidth s.params.depth ∧ s.tail < 2 ^ idxWidth s.params.depth ∧ s.count < 2 ^ cntWidth s.params.depth) ∧
  idxWidth 1 = 1 ∧ idxWidth 4 = 2 ∧ cntWidth 4 = 3 ∧ idxWidth 16 = 4 ∧ cntWidth 16 = 5

/-! ## The FIFO as a queue (10_state.md R26, 40_fifo.md R106 to R108, 20_memory.md R60) -/

/-- R106: the list laws of the four commands on the abstract queue. -/
def Obligations.QueueListLaws : Prop :=
  ∀ s : State, s.brokenInvariant = none → s.rdActive = false →
    (∀ b t, exec (.push b) (s.issuedBy .producer) = .next t →
      (s.queue.length < s.params.depth → t.queue = s.queue ++ [b] ∧ t.responses = s.responses ++ [⟨.producer, 1⟩]) ∧
      (s.queue.length = s.params.depth → t.queue = s.queue ∧ t.responses = s.responses ++ [⟨.producer, 0⟩])) ∧
    (∀ t, exec .pop (s.issuedBy .consumer) = .next t →
      (∀ b q, s.queue = b :: q → t.queue = q ∧ t.fault = s.fault ∧
        t.responses = s.responses ++ [⟨.consumer, b.setWidth 32⟩]) ∧
      (s.queue = [] → t.fault = some ⟨.popEmpty s.head, .consumer, [0x03000000]⟩)) ∧
    (∀ t, exec .empty (s.issuedBy .consumer) = .next t →
      t.queue = s.queue ∧ t.responses = s.responses ++ [⟨.consumer, if s.queue = [] then 1 else 0⟩]) ∧
    (∀ t, exec .finit (s.issuedBy .consumer) = .next t → t.queue = [])

/-- R108: the capacity law, for every N: from an empty FIFO, N+1 pushes store exactly the first N bytes and drop the last with ok = 0;
N pops then return those bytes in order and leave the FIFO empty. -/
def Obligations.CapacityPlusOneDropsTheLast : Prop :=
  ∀ (s : State) (bs : List Byte) (b : Byte),
    s.brokenInvariant = none → s.count = 0 → s.rdActive = false → bs.length = s.params.depth →
    ∃ t u, execAll ((bs ++ [b]).map .push) s = some t ∧ t.queue = bs ∧
      t.responses = s.responses ++ List.replicate bs.length ⟨.producer, 1⟩ ++ [⟨.producer, 0⟩] ∧
      execAll (List.replicate bs.length .pop) t = some u ∧ u.queue = [] ∧ u.count = 0 ∧ u.fault = s.fault ∧
      u.responses = t.responses ++ bs.map fun v => ⟨.consumer, v.setWidth 32⟩

/-- R107: the two orders of a push and a pop, in the three cases of the table. -/
def Obligations.PushAndPopInEitherOrder : Prop :=
  ∀ (s : State) (b : Byte), s.brokenInvariant = none → s.rdActive = false → s.fault = none →
    (s.count = 0 →
      (∃ t, execAll [.push b, .pop] s = some t ∧ t.count = 0 ∧ t.fault = none ∧
        t.responses = s.responses ++ [⟨.producer, 1⟩, ⟨.consumer, b.setWidth 32⟩]) ∧
      (∃ t, exec .pop (s.issuedBy .consumer) = .next t ∧
        t.fault = some ⟨.popEmpty s.head, .consumer, [0x03000000]⟩)) ∧
    (0 < s.count → s.count < s.params.depth → ∃ v q, s.queue = v :: q ∧
      (∃ t, execAll [.push b, .pop] s = some t ∧ t.queue = q ++ [b] ∧ t.count = s.count ∧
        t.responses = s.responses ++ [⟨.producer, 1⟩, ⟨.consumer, v.setWidth 32⟩]) ∧
      (∃ t, execAll [.pop, .push b] s = some t ∧ t.queue = q ++ [b] ∧ t.count = s.count ∧
        t.responses = s.responses ++ [⟨.consumer, v.setWidth 32⟩, ⟨.producer, 1⟩])) ∧
    (s.count = s.params.depth → ∃ v q, s.queue = v :: q ∧
      (∃ t, execAll [.push b, .pop] s = some t ∧ t.queue = q ∧ t.count + 1 = s.params.depth ∧
        t.responses = s.responses ++ [⟨.producer, 0⟩, ⟨.consumer, v.setWidth 32⟩]) ∧
      (∃ t, execAll [.pop, .push b] s = some t ∧ t.queue = q ++ [b] ∧ t.count = s.params.depth ∧
        t.responses = s.responses ++ [⟨.consumer, v.setWidth 32⟩, ⟨.producer, 1⟩]))

/-- R60: over any run in which no FINIT or DINIT is scheduled, the bytes that were in the FIFO and those that entered it are, in order,
the bytes that left it and those still in it: nothing is lost, doubled or reordered. -/
def Obligations.BytesLeaveInTheOrderTheyEntered : Prop :=
  ∀ (k : Nat) (s t : State), s.Inv → run k s = .next t →
    (∀ a ∈ s.inbox, a.words ≠ (encode .finit).words ∧ a.words ≠ (encode .dinit).words) →
    s.queue ++ (traffic k s).1 = (traffic k s).2 ++ t.queue

/-- R26: the queue determines everything the commands observe: two states that differ only in where the queue lies (HEAD, TAIL, the
storage, the HEAD a fault recorded) take matching steps, with the same responses, events and marks, and still differ only there. -/
def Obligations.QueueDeterminesWhatIsObserved : Prop :=
  ∀ s s' t : State, s.brokenInvariant = none → s'.brokenInvariant = none → s'.SameButPlace s → step s = .next t →
    ∃ t', step s' = .next t' ∧ t'.SameButPlace t

/-- R254, the safe pattern: once the FIFO is not empty, whatever the Producer does meanwhile, a following POP succeeds. -/
def Obligations.PopAfterNotEmptyIsSafe : Prop :=
  ∀ (k : Nat) (s t : State), s.brokenInvariant = none → 0 < s.count → s.rdActive = false →
    (∀ a ∈ s.inbox, a.agent = .producer) → run k s = .next t → t.NoMark →
    ∃ u v, exec .pop (t.issuedBy .consumer) = .next u ∧ u.last = some .ran ∧ u.fault = t.fault ∧
      s.mem.read s.head = some v ∧ u.responses = t.responses ++ [⟨.consumer, v.setWidth 32⟩]

/-! ## The translator (41_translator.md) -/

/-- R128: T as assembled in one piece. -/
def Obligations.TranslatorIsTheAssembledFunction : Prop :=
  ∀ (sc : Byte) (m : Modifiers),
    translate sc m =
      ((assembledT sc m.lshift m.rshift m.caps).1,
       ⟨(assembledT sc m.lshift m.rshift m.caps).2.1, (assembledT sc m.lshift m.rshift m.caps).2.2.1,
        (assembledT sc m.lshift m.rshift m.caps).2.2.2⟩)

/-- R126, R127: BASE_ROM holds the listed character at each of the 51 listed key numbers, and 0x00 at every other; SHIFT_ROM holds the
21 listed substitutions, maps a..z to A..Z, and is the identity on every other character.
The spec gives these contents from general knowledge, as a replaceable table: log entry 12. -/
def Obligations.RomsAreTheListedMaps : Prop :=
  (∀ p ∈ [(0x02, 0x31), (0x03, 0x32), (0x04, 0x33), (0x05, 0x34), (0x06, 0x35), (0x07, 0x36), (0x08, 0x37), (0x09, 0x38),
          (0x0A, 0x39), (0x0B, 0x30), (0x0C, 0x2D), (0x0D, 0x3D), (0x0E, 0x08), (0x0F, 0x09)] ++
         [(0x10, 0x71), (0x11, 0x77), (0x12, 0x65), (0x13, 0x72), (0x14, 0x74), (0x15, 0x79), (0x16, 0x75), (0x17, 0x69),
          (0x18, 0x6F), (0x19, 0x70), (0x1A, 0x5B), (0x1B, 0x5D), (0x1C, 0x0A)] ++
         [(0x1E, 0x61), (0x1F, 0x73), (0x20, 0x64), (0x21, 0x66), (0x22, 0x67), (0x23, 0x68), (0x24, 0x6A), (0x25, 0x6B),
          (0x26, 0x6C), (0x27, 0x3B), (0x28, 0x27), (0x29, 0x60)] ++
         [(0x2B, 0x5C), (0x2C, 0x7A), (0x2D, 0x78), (0x2E, 0x63), (0x2F, 0x76), (0x30, 0x62), (0x31, 0x6E), (0x32, 0x6D),
          (0x33, 0x2C), (0x34, 0x2E), (0x35, 0x2F), (0x39, 0x20)],
    (baseRom (BitVec.ofNat 7 p.1)).toNat = p.2) ∧
  ((List.range 128).countP fun k => baseRom (BitVec.ofNat 7 k) != 0) = 51 ∧
  (∀ p ∈ [(0x31, 0x21), (0x32, 0x40), (0x33, 0x23), (0x34, 0x24), (0x35, 0x25), (0x36, 0x5E), (0x37, 0x26), (0x38, 0x2A),
          (0x39, 0x28), (0x30, 0x29), (0x2D, 0x5F), (0x3D, 0x2B)] ++
         [(0x5B, 0x7B), (0x5D, 0x7D), (0x5C, 0x7C), (0x3B, 0x3A), (0x27, 0x22), (0x60, 0x7E), (0x2C, 0x3C), (0x2E, 0x3E),
          (0x2F, 0x3F)],
    (shiftRom (BitVec.ofNat 7 p.1)).toNat = p.2) ∧
  (∀ c ∈ List.range 128, 0x61 ≤ c → c ≤ 0x7A → (shiftRom (BitVec.ofNat 7 c)).toNat = c - 0x20) ∧
  (∀ c ∈ List.range 128, ¬ (0x61 ≤ c ∧ c ≤ 0x7A) →
    c ∉ [0x31, 0x32, 0x33, 0x34, 0x35, 0x36, 0x37, 0x38, 0x39, 0x30, 0x2D, 0x3D, 0x5B, 0x5D, 0x5C, 0x3B, 0x27, 0x60, 0x2C,
         0x2E, 0x2F] → (shiftRom (BitVec.ofNat 7 c)).toNat = c)

/-- R129: the partition of the 256 scan codes, for every setting of the flags, with the table's counts: 125 break codes of no effect, 51
mapped make codes, 74 make codes of no effect. -/
def Obligations.ScanCodePartition : Prop :=
  ((List.range 256).countP fun k => 128 ≤ k ∧ k ∉ [0xAA, 0xB6, 0xBA]) = 125 ∧
  ((List.range 128).countP fun k => baseRom (BitVec.ofNat 7 k) ≠ 0) = 51 ∧
  ((List.range 128).countP fun k => baseRom (BitVec.ofNat 7 k) = 0 ∧ k ∉ [0x2A, 0x36, 0x3A]) = 74 ∧
  ∀ (sc : Byte) (m : Modifiers),
    (sc = 0xAA ∨ sc = 0x2A → translate sc m = (none, ⟨!m.lshift, m.rshift, m.caps⟩)) ∧
    (sc = 0xB6 ∨ sc = 0x36 → translate sc m = (none, ⟨m.lshift, !m.rshift, m.caps⟩)) ∧
    (sc = 0xBA → translate sc m = (none, ⟨m.lshift, m.rshift, !m.caps⟩)) ∧
    (0x80 ≤ sc.toNat → sc ≠ 0xAA → sc ≠ 0xB6 → sc ≠ 0xBA → translate sc m = (none, m)) ∧
    (sc = 0x3A → translate sc m = (none, m)) ∧
    (sc.toNat < 0x80 → sc ≠ 0x2A → sc ≠ 0x36 → baseRom (sc.extractLsb' 0 7) = 0 → translate sc m = (none, m)) ∧
    (sc.toNat < 0x80 → baseRom (sc.extractLsb' 0 7) ≠ 0 → ∃ c, translate sc m = (some c, m))

/-- R29, D11: every character T produces is a 7-bit code other than 0x00, so 0x00 can stand for "no character". -/
def Obligations.CharactersAreNonzeroSevenBit : Prop :=
  ∀ (sc c : Byte) (m m' : Modifiers), translate sc m = (some c, m') → c ≠ 0 ∧ c.toNat < 128 ∧ m' = m

/-- R130: toggle symmetry, caps-lock once per full cycle, a letter's release changes nothing, and the shifted digit. -/
def Obligations.ToggleLaws : Prop :=
  (∀ m, flagsAfter [0x2A, 0xAA] m = m) ∧ (∀ m, flagsAfter [0x36, 0xB6] m = m) ∧
  (∀ m, flagsAfter [0x3A, 0xBA, 0x3A, 0xBA] m = m) ∧ (∀ m, flagsAfter [0x3A] m = m) ∧
  (∀ m, flagsAfter [0x3A, 0xBA] m = ⟨m.lshift, m.rshift, !m.caps⟩) ∧
  (∀ (sc c : Byte) (m m' : Modifiers), translate sc m = (some c, m') →
    translate sc (flagsAfter [sc, sc ||| 0x80] m) = (some c, m')) ∧
  translate 0x2A ⟨false, false, false⟩ = (none, ⟨true, false, false⟩) ∧
  translate 0x02 ⟨true, false, false⟩ = (some 0x21, ⟨true, false, false⟩) ∧
  translate 0xAA ⟨true, false, false⟩ = (none, ⟨false, false, false⟩) ∧
  translate 0x02 ⟨false, false, false⟩ = (some 0x31, ⟨false, false, false⟩)

/-- R131: a shift flag follows the parity of the make and break codes of its key; CAPS follows the parity of its break codes alone. -/
def Obligations.FlagsFollowParity : Prop :=
  ∀ (scs : List Byte) (m : Modifiers),
    (flagsAfter scs m).lshift = (m.lshift ^^ decide ((scs.countP fun c => c == 0x2A || c == 0xAA) % 2 = 1)) ∧
    (flagsAfter scs m).rshift = (m.rshift ^^ decide ((scs.countP fun c => c == 0x36 || c == 0xB6) % 2 = 1)) ∧
    (flagsAfter scs m).caps = (m.caps ^^ decide ((scs.countP fun c => c == 0xBA) % 2 = 1))

/-! ## The READ call over a whole run (42_driver.md R165 to R168) -/

/-- R165 laws 1, 2 and 4, R167: whatever the Producer does during a call, no write lies outside `base .. base + cnt - 1`; the bytes
written, in order and to consecutive addresses, are T's SOME results on the codes popped, in pop order; the count returned is
the number written, at most the count requested; and a call ends only when that number is reached or the FIFO is empty. -/
def Obligations.ReadStaysWithinTheRequest : Prop :=
  (∀ (k : Nat) (s t : State), s.rdActive = true → s.rdWritten.toNat ≤ s.rdReq.toNat →
    (∀ a ∈ s.inbox, a = .readStep ∨ a.agent = .producer) → run k s = .next t →
    (∃ new, t.history = s.history ++ new ∧ new.all (Event.within s.rdBase.toNat s.rdReq.toNat) = true ∧
      new.filter Event.isMemWrite =
        writeEvents (s.rdBase.toNat + s.rdWritten.toNat) (charsOf (traffic k s).2 s.mods)) ∧
    t.cmem = writeAll s.cmem (s.rdBase.toNat + s.rdWritten.toNat) (charsOf (traffic k s).2 s.mods) ∧
    t.mods = flagsAfter (traffic k s).2 s.mods ∧
    t.rdWritten.toNat = s.rdWritten.toNat + (charsOf (traffic k s).2 s.mods).length ∧
    t.rdWritten.toNat ≤ s.rdReq.toNat ∧
    (∃ new, t.responses = s.responses ++ new ∧ (∀ r ∈ new, r.agent = .consumer → r.word.toNat ≤ s.rdReq.toNat) ∧
      new.filter (fun r => r.agent == .consumer) =
        if t.rdActive then [] else [⟨.consumer, t.rdWritten.setWidth 32⟩])) ∧
  (∀ s t : State, step s = .next t → s.rdActive = true → t.rdActive = false →
    (s.rdWritten = s.rdReq ∨ s.count = 0) ∧ t.count = s.count ∧ t.rdWritten = s.rdWritten ∧
    t.responses = s.responses ++ [⟨.consumer, s.rdWritten.setWidth 32⟩])

/-- R166, R257: a READ with no Producer step during the call is the reference function: the count returned, the bytes written in pop
order to consecutive addresses, the codes left, the final flags, in 1 + i + 1 Consumer steps. -/
def Obligations.UndisturbedReadIsTheReference : Prop :=
  ∀ (s : State) (cnt : Count24) (base : Word) (ans : Option Byte) (rest : List Attempt) (i : Nat),
    s.Inv → s.fault = none → s.refused = none → s.rdActive = false → base.toNat < 2 ^ s.params.addrW →
    MemAdmits s.params base.toNat cnt.toNat →
    i + (readReference cnt.toNat s.queue s.mods).2.1.length = s.queue.length →
    s.inbox = .issue .consumer (encode (.read cnt base)) ans :: (List.replicate (i + 1) .readStep ++ rest) →
    ∃ t, run (1 + i + 1) s = .next t ∧ t.inbox = rest ∧ t.rdActive = false ∧ t.fault = none ∧ t.refused = none ∧
      t.responses = s.responses ++
        [⟨.consumer, BitVec.ofNat 32 (readReference cnt.toNat s.queue s.mods).1.length⟩] ∧
      t.queue = (readReference cnt.toNat s.queue s.mods).2.1 ∧
      t.mods = (readReference cnt.toNat s.queue s.mods).2.2 ∧
      t.cmem = writeAll s.cmem base.toNat (readReference cnt.toNat s.queue s.mods).1

/-- R168: READ need not terminate: for every n, n interrupts that each bring a code without a character, one before each iteration,
keep the call open with nothing written.
The port answers that go with the attempts are the model's form of fixed draws: log entry 10. -/
def Obligations.ReadNeedNotTerminate : Prop :=
  ∀ (n : Nat) (s : State), s.Inv → s.fault = none → s.refused = none → s.irqReg = true → s.rdActive = true →
    s.rdWritten.toNat < s.rdReq.toNat → s.count = 0 →
    s.inbox = (List.replicate n [.issue .producer (encode .irq) (some 0x80), .readStep]).flatten →
    ∃ t, run (2 * n) s = .next t ∧ t.inbox = [] ∧ t.rdActive = true ∧ t.rdWritten = s.rdWritten ∧ t.count = 0 ∧
      t.cmem = s.cmem ∧ t.history.length = s.history.length + 2 * n

/-- R52, R204: a Consumer whose next character may not be written is stuck for good: whatever is scheduled, the call stays open and no
entry is popped; only the Producer's bytes are added behind it. -/
def Obligations.UnadmittedWriteSticksTheConsumer : Prop :=
  ∀ (k : Nat) (s t : State) (v c : Byte), s.brokenInvariant = none → s.rdActive = true →
    s.rdWritten.toNat < s.rdReq.toNat → 0 < s.count → s.mem.read s.head = some v → (translate v s.mods).1 = some c →
    admits s.params (s.rdBase.toNat + s.rdWritten.toNat) = false → run k s = .next t →
    t.rdActive = true ∧ t.head = s.head ∧ t.rdWritten = s.rdWritten ∧ t.mods = s.mods ∧ t.cmem = s.cmem ∧
    (∃ new, t.queue = s.queue ++ new) ∧ ¬ t.Ended
end

