-- ==== Sys2Proof/Laws/Decode.lean ====
section
/-! SUPPORT. The fields of the encoder's words, and words, fields and bytes as each other's inverse. -/

namespace Sys2Proof

/-! ### The fields of a Format Z, B or R word -/

theorem opOf_append (op : BitVec 8) (lo : BitVec 24) : opOf (op ++ lo) = op := by
  refine BitVec.eq_of_getLsbD_eq fun i hi => ?_
  have h := BitVec.getLsbD_append (x := op) (y := lo) (i := 24 + i)
  simpa [opOf, hi] using h

theorem low24_append (op : BitVec 8) (lo : BitVec 24) : low24 (op ++ lo) = lo := by
  refine BitVec.eq_of_getLsbD_eq fun i hi => ?_
  have h := BitVec.getLsbD_append (x := op) (y := lo) (i := i)
  simpa [low24, hi] using h

theorem opOf_appendB (op : BitVec 8) (z : BitVec 16) (b : Byte) : opOf (op ++ z ++ b) = op := by
  refine BitVec.eq_of_getLsbD_eq fun i hi => ?_
  have h := BitVec.getLsbD_append (x := op ++ z) (y := b) (i := 24 + i)
  have h' := BitVec.getLsbD_append (x := op) (y := z) (i := 16 + i)
  rw [if_neg (by omega), show 24 + i - 8 = 16 + i by omega, h', if_neg (by omega), Nat.add_sub_cancel_left] at h
  simpa [opOf, hi] using h

theorem mid16_appendB (op : BitVec 8) (z : BitVec 16) (b : Byte) : mid16 (op ++ z ++ b) = z := by
  refine BitVec.eq_of_getLsbD_eq fun i hi => ?_
  have h := BitVec.getLsbD_append (x := op ++ z) (y := b) (i := 8 + i)
  have h' := BitVec.getLsbD_append (x := op) (y := z) (i := i)
  rw [if_neg (by omega), Nat.add_sub_cancel_left, h', if_pos hi] at h
  simpa [mid16, hi] using h

theorem low8_appendB (op : BitVec 8) (z : BitVec 16) (b : Byte) : low8 (op ++ z ++ b) = b := by
  refine BitVec.eq_of_getLsbD_eq fun i hi => ?_
  have h := BitVec.getLsbD_append (x := op ++ z) (y := b) (i := i)
  simpa [low8, hi] using h

@[simp] theorem opOf_encodeZ (op : BitVec 8) : opOf (encodeZ op).w0 = op := opOf_append op 0
@[simp] theorem low24_encodeZ (op : BitVec 8) : low24 (encodeZ op).w0 = 0 := low24_append op 0
@[simp] theorem opOf_encodeB (op : BitVec 8) (b : Byte) : opOf (encodeB op b).w0 = op := opOf_appendB op 0 b
@[simp] theorem mid16_encodeB (op : BitVec 8) (b : Byte) : mid16 (encodeB op b).w0 = 0 := mid16_appendB op 0 b
@[simp] theorem low8_encodeB (op : BitVec 8) (b : Byte) : low8 (encodeB op b).w0 = b := low8_appendB op 0 b
@[simp] theorem opOf_encodeR (cnt : Count24) (base : Word) : opOf (encodeR cnt base).w0 = opRead := opOf_append opRead cnt
@[simp] theorem low24_encodeR (cnt : Count24) (base : Word) : low24 (encodeR cnt base).w0 = cnt := low24_append opRead cnt
@[simp] theorem w1_encodeR (cnt : Count24) (base : Word) : (encodeR cnt base).w1 = some base := rfl

/-! ### A word is its fields -/

theorem append_op_low24 (w : Word) : opOf w ++ low24 w = w := by
  refine BitVec.eq_of_getLsbD_eq fun i hi => ?_
  simp only [opOf, low24, BitVec.getLsbD_append, BitVec.getLsbD_extractLsb']
  split
  · simp_all
  · simp [show i - 24 < 8 by omega, show 24 + (i - 24) = i by omega]

theorem append_op_mid16_low8 (w : Word) : opOf w ++ mid16 w ++ low8 w = w := by
  refine BitVec.eq_of_getLsbD_eq fun i hi => ?_
  simp only [opOf, mid16, low8, BitVec.getLsbD_append, BitVec.getLsbD_extractLsb']
  split
  · simp_all
  · split
    · simp_all [show 8 + (i - 8) = i by omega]
    · simp [show i - 8 - 16 < 8 by omega, show 24 + (i - 8 - 16) = i by omega]
/-- A Format Z word is its OP. -/
theorem encodeZ_of_low24 {w : Word} (h : low24 w = 0) : (encodeZ (opOf w)).w0 = w := by
  have := append_op_low24 w
  rw [h] at this
  exact this

/-- A Format B word is its OP and its byte. -/
theorem encodeB_of_mid16 {w : Word} (h : mid16 w = 0) : (encodeB (opOf w) (low8 w)).w0 = w := by
  have := append_op_mid16_low8 w
  rw [h] at this
  exact this

/-- A Format R word is its OP and its count. -/
theorem encodeR_of_op {w : Word} (h : opOf w = opRead) (base : Word) : (encodeR (low24 w) base).w0 = w := by
  have := append_op_low24 w
  rw [h] at this
  exact this

/-! ### Byte order -/

/-- The four bytes of a word, put together again, are the word. -/
theorem wordOfBytes_bytesOfWord (w : Word) :
    wordOfBytes (w.extractLsb' 0 8) (w.extractLsb' 8 8) (w.extractLsb' 16 8) (w.extractLsb' 24 8) = w := by
  refine BitVec.eq_of_getLsbD_eq fun i hi => ?_
  simp only [wordOfBytes, BitVec.getLsbD_append, BitVec.getLsbD_extractLsb']
  split
  · simp_all
  · split
    · simp_all [show 8 + (i - 8) = i by omega]
    · split
      · simp_all [show 16 + (i - 8 - 8) = i by omega]
      · simp [show i - 8 - 8 - 8 < 8 by omega, show 24 + (i - 8 - 8 - 8) = i by omega]

/-- A word's bytes, read back, are the word. -/
@[simp] theorem takeWord_bytesOfWord (w : Word) (rest : List Byte) : takeWord (bytesOfWord w ++ rest) = some (w, rest) := by
  simp [takeWord, bytesOfWord, wordOfBytes_bytesOfWord]

end Sys2Proof
end

