-- ==== Sys2Proof/Laws/Memory.lean ====
section
/-! SUPPORT. The laws of a byte space: a read after a write, the canonical form, and equality from equal reads. -/

namespace Sys2Proof.Machine

@[simp] theorem Memory.read_nil (a : Nat) : Memory.read [] a = none := rfl

@[simp] theorem Memory.write_nil (a : Nat) (v : Byte) : Memory.write [] a v = [(a, v)] := rfl

theorem Memory.read_cons (b : Nat) (w : Byte) (m : Memory) (a : Nat) :
    Memory.read ((b, w) :: m) a = if b = a then some w else Memory.read m a := rfl

theorem Memory.risesFrom_cons (lo a : Nat) (v : Byte) (m : Memory) :
    Memory.risesFrom lo ((a, v) :: m) = true ↔ lo ≤ a ∧ Memory.risesFrom (a + 1) m = true := by
  simp [Memory.risesFrom]

/-- A canonical space has nothing below its first possible address. -/
theorem Memory.read_below_eq_none {lo a : Nat} {m : Memory} (h : Memory.risesFrom lo m = true) (ha : a < lo) :
    Memory.read m a = none := by
  induction m generalizing lo with
  | nil => rfl
  | cons c m ih =>
    obtain ⟨b, w⟩ := c
    obtain ⟨hb, hm⟩ := (Memory.risesFrom_cons lo b w m).1 h
    rw [Memory.read_cons, if_neg (by omega)]
    exact ih hm (by omega)

/-- A read after a write: the byte written there, every other byte as before. No canonical form is needed. -/
theorem Memory.read_write (m : Memory) (a : Nat) (v : Byte) (x : Nat) :
    Memory.read (Memory.write m a v) x = if x = a then some v else Memory.read m x := by
  induction m with
  | nil => simp [Memory.read_cons, eq_comm]
  | cons c m ih =>
    obtain ⟨b, w⟩ := c
    simp only [Memory.write]
    split
    · simp [Memory.read_cons, eq_comm]
    · split
      · next h =>
        subst h
        by_cases hx : x = a
        · simp [Memory.read_cons, hx]
        · simp [Memory.read_cons, hx, Ne.symm hx]
      · next h => by_cases hx : b = x <;> simp_all [Memory.read_cons, eq_comm]

@[simp] theorem Memory.read_write_same (m : Memory) (a : Nat) (v : Byte) :
    Memory.read (Memory.write m a v) a = some v := by simp [Memory.read_write]

theorem Memory.read_write_other (m : Memory) {a x : Nat} (v : Byte) (h : x ≠ a) :
    Memory.read (Memory.write m a v) x = Memory.read m x := by simp [Memory.read_write, h]

theorem Memory.risesFrom_write {lo : Nat} {m : Memory} {a : Nat} (v : Byte) (h : Memory.risesFrom lo m = true)
    (ha : lo ≤ a) : Memory.risesFrom lo (Memory.write m a v) = true := by
  induction m generalizing lo with
  | nil => simp [Memory.risesFrom, ha]
  | cons c m ih =>
    obtain ⟨b, w⟩ := c
    obtain ⟨hb, hm⟩ := (Memory.risesFrom_cons lo b w m).1 h
    simp only [Memory.write]
    split
    · next hab => exact (Memory.risesFrom_cons ..).2 ⟨ha, (Memory.risesFrom_cons ..).2 ⟨by omega, hm⟩⟩
    · split
      · next he => subst he; exact (Memory.risesFrom_cons ..).2 ⟨ha, hm⟩
      · exact (Memory.risesFrom_cons ..).2 ⟨hb, ih hm (by omega)⟩

/-- A write keeps the canonical form. -/
theorem Memory.wf_write {m : Memory} (a : Nat) (v : Byte) (h : m.wf = true) : (Memory.write m a v).wf = true :=
  Memory.risesFrom_write v h (Nat.zero_le a)

theorem Memory.below_cons (n b : Nat) (w : Byte) (m : Memory) :
    Memory.below n ((b, w) :: m) = true ↔ b < n ∧ Memory.below n m = true := by simp [Memory.below]

/-- A write at an address that exists keeps every listed address in range. -/
theorem Memory.below_write {n : Nat} {m : Memory} {a : Nat} (v : Byte) (h : m.below n = true) (ha : a < n) :
    (Memory.write m a v).below n = true := by
  induction m with
  | nil => simp [Memory.below, ha]
  | cons c m ih =>
    obtain ⟨b, w⟩ := c
    obtain ⟨hb, hm⟩ := (Memory.below_cons n b w m).1 h
    simp only [Memory.write]
    split
    · exact (Memory.below_cons ..).2 ⟨ha, h⟩
    · split
      · exact (Memory.below_cons ..).2 ⟨ha, hm⟩
      · exact (Memory.below_cons ..).2 ⟨hb, ih hm⟩

/-- Canonical spaces that read alike are the same data. -/
theorem Memory.ext_of_risesFrom {lo : Nat} {m n : Memory} (hm : Memory.risesFrom lo m = true)
    (hn : Memory.risesFrom lo n = true) (h : ∀ a, Memory.read m a = Memory.read n a) : m = n := by
  induction m generalizing lo n with
  | nil =>
    cases n with
    | nil => rfl
    | cons c n => have := h c.1; simp [Memory.read] at this
  | cons c m ih =>
    obtain ⟨b, w⟩ := c
    obtain ⟨hb, hm'⟩ := (Memory.risesFrom_cons lo b w m).1 hm
    cases n with
    | nil => have := h b; simp [Memory.read_cons] at this
    | cons d n =>
      obtain ⟨e, x⟩ := d
      obtain ⟨he, hn'⟩ := (Memory.risesFrom_cons lo e x n).1 hn
      have hbe : b = e := by
        rcases Nat.lt_trichotomy b e with hlt | heq | hgt
        · have h1 := h b
          rw [Memory.read_cons, if_pos rfl, Memory.read_cons, if_neg (by omega),
            Memory.read_below_eq_none hn' (by omega)] at h1
          cases h1
        · exact heq
        · have h1 := h e
          rw [Memory.read_cons, if_neg (by omega), Memory.read_below_eq_none hm' (by omega), Memory.read_cons,
            if_pos rfl] at h1
          cases h1
      subst hbe
      have hwx : w = x := by have h1 := h b; simpa [Memory.read_cons] using h1
      subst hwx
      have := ih hm' hn' fun a => by
        have h1 := h a
        by_cases hab : b = a
        · subst hab
          rw [Memory.read_below_eq_none hm' (by omega), Memory.read_below_eq_none hn' (by omega)]
        · simpa [Memory.read_cons, hab] using h1
      rw [this]

/-- Canonical spaces that read alike are the same data. -/
theorem Memory.ext {m n : Memory} (hm : m.wf = true) (hn : n.wf = true)
    (h : ∀ a, Memory.read m a = Memory.read n a) : m = n :=
  Memory.ext_of_risesFrom hm hn h

/-- A history's replay grows by its last event. -/
theorem replay_append (h : List Event) (e : Event) : replay (h ++ [e]) = Event.apply (replay h) e := by
  simp [replay]

end Sys2Proof.Machine
end

