-- ==== Sys2Proof/Laws/State.lean ====
section
/-! SUPPORT. One lemma per field per update of State: what each shared operation writes and what it leaves alone. -/

namespace Sys2Proof.Machine

variable (s : State)

/-! ### `respond` -/

@[simp] theorem State.respond_mem (ag : Agent) (w : Word) : (State.respond ag w s).mem = s.mem := rfl
@[simp] theorem State.respond_head (ag : Agent) (w : Word) : (State.respond ag w s).head = s.head := rfl
@[simp] theorem State.respond_tail (ag : Agent) (w : Word) : (State.respond ag w s).tail = s.tail := rfl
@[simp] theorem State.respond_count (ag : Agent) (w : Word) : (State.respond ag w s).count = s.count := rfl
@[simp] theorem State.respond_mods (ag : Agent) (w : Word) : (State.respond ag w s).mods = s.mods := rfl
@[simp] theorem State.respond_irqReg (ag : Agent) (w : Word) : (State.respond ag w s).irqReg = s.irqReg := rfl
@[simp] theorem State.respond_rdActive (ag : Agent) (w : Word) : (State.respond ag w s).rdActive = s.rdActive := rfl
@[simp] theorem State.respond_rdBase (ag : Agent) (w : Word) : (State.respond ag w s).rdBase = s.rdBase := rfl
@[simp] theorem State.respond_rdReq (ag : Agent) (w : Word) : (State.respond ag w s).rdReq = s.rdReq := rfl
@[simp] theorem State.respond_rdWritten (ag : Agent) (w : Word) : (State.respond ag w s).rdWritten = s.rdWritten := rfl
@[simp] theorem State.respond_fault (ag : Agent) (w : Word) : (State.respond ag w s).fault = s.fault := rfl
@[simp] theorem State.respond_refused (ag : Agent) (w : Word) : (State.respond ag w s).refused = s.refused := rfl
@[simp] theorem State.respond_history (ag : Agent) (w : Word) : (State.respond ag w s).history = s.history := rfl
@[simp] theorem State.respond_cmem (ag : Agent) (w : Word) : (State.respond ag w s).cmem = s.cmem := rfl
@[simp] theorem State.respond_params (ag : Agent) (w : Word) : (State.respond ag w s).params = s.params := rfl
@[simp] theorem State.respond_inbox (ag : Agent) (w : Word) : (State.respond ag w s).inbox = s.inbox := rfl
@[simp] theorem State.respond_issuer (ag : Agent) (w : Word) : (State.respond ag w s).issuer = s.issuer := rfl
@[simp] theorem State.respond_portAnswer (ag : Agent) (w : Word) : (State.respond ag w s).portAnswer = s.portAnswer := rfl
@[simp] theorem State.respond_drawIndex (ag : Agent) (w : Word) : (State.respond ag w s).drawIndex = s.drawIndex := rfl
@[simp] theorem State.respond_responses (ag : Agent) (w : Word) : (State.respond ag w s).responses = s.responses ++ [⟨ag, w⟩] := rfl
@[simp] theorem State.respond_last (ag : Agent) (w : Word) : (State.respond ag w s).last = some .ran := rfl

/-! ### `ranSilently` -/

@[simp] theorem State.ranSilently_mem : (State.ranSilently s).mem = s.mem := rfl
@[simp] theorem State.ranSilently_head : (State.ranSilently s).head = s.head := rfl
@[simp] theorem State.ranSilently_tail : (State.ranSilently s).tail = s.tail := rfl
@[simp] theorem State.ranSilently_count : (State.ranSilently s).count = s.count := rfl
@[simp] theorem State.ranSilently_mods : (State.ranSilently s).mods = s.mods := rfl
@[simp] theorem State.ranSilently_irqReg : (State.ranSilently s).irqReg = s.irqReg := rfl
@[simp] theorem State.ranSilently_rdActive : (State.ranSilently s).rdActive = s.rdActive := rfl
@[simp] theorem State.ranSilently_rdBase : (State.ranSilently s).rdBase = s.rdBase := rfl
@[simp] theorem State.ranSilently_rdReq : (State.ranSilently s).rdReq = s.rdReq := rfl
@[simp] theorem State.ranSilently_rdWritten : (State.ranSilently s).rdWritten = s.rdWritten := rfl
@[simp] theorem State.ranSilently_fault : (State.ranSilently s).fault = s.fault := rfl
@[simp] theorem State.ranSilently_refused : (State.ranSilently s).refused = s.refused := rfl
@[simp] theorem State.ranSilently_history : (State.ranSilently s).history = s.history := rfl
@[simp] theorem State.ranSilently_cmem : (State.ranSilently s).cmem = s.cmem := rfl
@[simp] theorem State.ranSilently_params : (State.ranSilently s).params = s.params := rfl
@[simp] theorem State.ranSilently_inbox : (State.ranSilently s).inbox = s.inbox := rfl
@[simp] theorem State.ranSilently_issuer : (State.ranSilently s).issuer = s.issuer := rfl
@[simp] theorem State.ranSilently_portAnswer : (State.ranSilently s).portAnswer = s.portAnswer := rfl
@[simp] theorem State.ranSilently_drawIndex : (State.ranSilently s).drawIndex = s.drawIndex := rfl
@[simp] theorem State.ranSilently_responses : (State.ranSilently s).responses = s.responses := rfl
@[simp] theorem State.ranSilently_last : (State.ranSilently s).last = some .ran := rfl

/-! ### `noStep` -/

@[simp] theorem State.noStep_mem : (State.noStep s).mem = s.mem := rfl
@[simp] theorem State.noStep_head : (State.noStep s).head = s.head := rfl
@[simp] theorem State.noStep_tail : (State.noStep s).tail = s.tail := rfl
@[simp] theorem State.noStep_count : (State.noStep s).count = s.count := rfl
@[simp] theorem State.noStep_mods : (State.noStep s).mods = s.mods := rfl
@[simp] theorem State.noStep_irqReg : (State.noStep s).irqReg = s.irqReg := rfl
@[simp] theorem State.noStep_rdActive : (State.noStep s).rdActive = s.rdActive := rfl
@[simp] theorem State.noStep_rdBase : (State.noStep s).rdBase = s.rdBase := rfl
@[simp] theorem State.noStep_rdReq : (State.noStep s).rdReq = s.rdReq := rfl
@[simp] theorem State.noStep_rdWritten : (State.noStep s).rdWritten = s.rdWritten := rfl
@[simp] theorem State.noStep_fault : (State.noStep s).fault = s.fault := rfl
@[simp] theorem State.noStep_refused : (State.noStep s).refused = s.refused := rfl
@[simp] theorem State.noStep_history : (State.noStep s).history = s.history := rfl
@[simp] theorem State.noStep_cmem : (State.noStep s).cmem = s.cmem := rfl
@[simp] theorem State.noStep_params : (State.noStep s).params = s.params := rfl
@[simp] theorem State.noStep_inbox : (State.noStep s).inbox = s.inbox := rfl
@[simp] theorem State.noStep_issuer : (State.noStep s).issuer = s.issuer := rfl
@[simp] theorem State.noStep_portAnswer : (State.noStep s).portAnswer = s.portAnswer := rfl
@[simp] theorem State.noStep_drawIndex : (State.noStep s).drawIndex = s.drawIndex := rfl
@[simp] theorem State.noStep_responses : (State.noStep s).responses = s.responses := rfl
@[simp] theorem State.noStep_last : (State.noStep s).last = some .noStep := rfl

/-! ### `enterFault` -/

@[simp] theorem State.enterFault_mem (cause : FaultCause) (ag : Agent) (ws : List Word) : (State.enterFault cause ag ws s).mem = s.mem := rfl
@[simp] theorem State.enterFault_head (cause : FaultCause) (ag : Agent) (ws : List Word) : (State.enterFault cause ag ws s).head = s.head := rfl
@[simp] theorem State.enterFault_tail (cause : FaultCause) (ag : Agent) (ws : List Word) : (State.enterFault cause ag ws s).tail = s.tail := rfl
@[simp] theorem State.enterFault_count (cause : FaultCause) (ag : Agent) (ws : List Word) : (State.enterFault cause ag ws s).count = s.count := rfl
@[simp] theorem State.enterFault_mods (cause : FaultCause) (ag : Agent) (ws : List Word) : (State.enterFault cause ag ws s).mods = s.mods := rfl
@[simp] theorem State.enterFault_irqReg (cause : FaultCause) (ag : Agent) (ws : List Word) : (State.enterFault cause ag ws s).irqReg = s.irqReg := rfl
@[simp] theorem State.enterFault_rdActive (cause : FaultCause) (ag : Agent) (ws : List Word) : (State.enterFault cause ag ws s).rdActive = s.rdActive := rfl
@[simp] theorem State.enterFault_rdBase (cause : FaultCause) (ag : Agent) (ws : List Word) : (State.enterFault cause ag ws s).rdBase = s.rdBase := rfl
@[simp] theorem State.enterFault_rdReq (cause : FaultCause) (ag : Agent) (ws : List Word) : (State.enterFault cause ag ws s).rdReq = s.rdReq := rfl
@[simp] theorem State.enterFault_rdWritten (cause : FaultCause) (ag : Agent) (ws : List Word) : (State.enterFault cause ag ws s).rdWritten = s.rdWritten := rfl
@[simp] theorem State.enterFault_fault (cause : FaultCause) (ag : Agent) (ws : List Word) : (State.enterFault cause ag ws s).fault = some ⟨cause, ag, ws⟩ := rfl
@[simp] theorem State.enterFault_refused (cause : FaultCause) (ag : Agent) (ws : List Word) : (State.enterFault cause ag ws s).refused = s.refused := rfl
@[simp] theorem State.enterFault_history (cause : FaultCause) (ag : Agent) (ws : List Word) : (State.enterFault cause ag ws s).history = s.history := rfl
@[simp] theorem State.enterFault_cmem (cause : FaultCause) (ag : Agent) (ws : List Word) : (State.enterFault cause ag ws s).cmem = s.cmem := rfl
@[simp] theorem State.enterFault_params (cause : FaultCause) (ag : Agent) (ws : List Word) : (State.enterFault cause ag ws s).params = s.params := rfl
@[simp] theorem State.enterFault_inbox (cause : FaultCause) (ag : Agent) (ws : List Word) : (State.enterFault cause ag ws s).inbox = s.inbox := rfl
@[simp] theorem State.enterFault_issuer (cause : FaultCause) (ag : Agent) (ws : List Word) : (State.enterFault cause ag ws s).issuer = s.issuer := rfl
@[simp] theorem State.enterFault_portAnswer (cause : FaultCause) (ag : Agent) (ws : List Word) : (State.enterFault cause ag ws s).portAnswer = s.portAnswer := rfl
@[simp] theorem State.enterFault_drawIndex (cause : FaultCause) (ag : Agent) (ws : List Word) : (State.enterFault cause ag ws s).drawIndex = s.drawIndex := rfl
@[simp] theorem State.enterFault_responses (cause : FaultCause) (ag : Agent) (ws : List Word) : (State.enterFault cause ag ws s).responses = s.responses := rfl
@[simp] theorem State.enterFault_last (cause : FaultCause) (ag : Agent) (ws : List Word) : (State.enterFault cause ag ws s).last = some .faulted := rfl

/-! ### `enterRefusal` -/

@[simp] theorem State.enterRefusal_mem (reason : RefusalReason) (ag : Agent) (ws : List Word) : (State.enterRefusal reason ag ws s).mem = s.mem := rfl
@[simp] theorem State.enterRefusal_head (reason : RefusalReason) (ag : Agent) (ws : List Word) : (State.enterRefusal reason ag ws s).head = s.head := rfl
@[simp] theorem State.enterRefusal_tail (reason : RefusalReason) (ag : Agent) (ws : List Word) : (State.enterRefusal reason ag ws s).tail = s.tail := rfl
@[simp] theorem State.enterRefusal_count (reason : RefusalReason) (ag : Agent) (ws : List Word) : (State.enterRefusal reason ag ws s).count = s.count := rfl
@[simp] theorem State.enterRefusal_mods (reason : RefusalReason) (ag : Agent) (ws : List Word) : (State.enterRefusal reason ag ws s).mods = s.mods := rfl
@[simp] theorem State.enterRefusal_irqReg (reason : RefusalReason) (ag : Agent) (ws : List Word) : (State.enterRefusal reason ag ws s).irqReg = s.irqReg := rfl
@[simp] theorem State.enterRefusal_rdActive (reason : RefusalReason) (ag : Agent) (ws : List Word) : (State.enterRefusal reason ag ws s).rdActive = s.rdActive := rfl
@[simp] theorem State.enterRefusal_rdBase (reason : RefusalReason) (ag : Agent) (ws : List Word) : (State.enterRefusal reason ag ws s).rdBase = s.rdBase := rfl
@[simp] theorem State.enterRefusal_rdReq (reason : RefusalReason) (ag : Agent) (ws : List Word) : (State.enterRefusal reason ag ws s).rdReq = s.rdReq := rfl
@[simp] theorem State.enterRefusal_rdWritten (reason : RefusalReason) (ag : Agent) (ws : List Word) : (State.enterRefusal reason ag ws s).rdWritten = s.rdWritten := rfl
@[simp] theorem State.enterRefusal_fault (reason : RefusalReason) (ag : Agent) (ws : List Word) : (State.enterRefusal reason ag ws s).fault = s.fault := rfl
@[simp] theorem State.enterRefusal_refused (reason : RefusalReason) (ag : Agent) (ws : List Word) : (State.enterRefusal reason ag ws s).refused = some ⟨reason, ag, ws⟩ := rfl
@[simp] theorem State.enterRefusal_history (reason : RefusalReason) (ag : Agent) (ws : List Word) : (State.enterRefusal reason ag ws s).history = s.history := rfl
@[simp] theorem State.enterRefusal_cmem (reason : RefusalReason) (ag : Agent) (ws : List Word) : (State.enterRefusal reason ag ws s).cmem = s.cmem := rfl
@[simp] theorem State.enterRefusal_params (reason : RefusalReason) (ag : Agent) (ws : List Word) : (State.enterRefusal reason ag ws s).params = s.params := rfl
@[simp] theorem State.enterRefusal_inbox (reason : RefusalReason) (ag : Agent) (ws : List Word) : (State.enterRefusal reason ag ws s).inbox = s.inbox := rfl
@[simp] theorem State.enterRefusal_issuer (reason : RefusalReason) (ag : Agent) (ws : List Word) : (State.enterRefusal reason ag ws s).issuer = s.issuer := rfl
@[simp] theorem State.enterRefusal_portAnswer (reason : RefusalReason) (ag : Agent) (ws : List Word) : (State.enterRefusal reason ag ws s).portAnswer = s.portAnswer := rfl
@[simp] theorem State.enterRefusal_drawIndex (reason : RefusalReason) (ag : Agent) (ws : List Word) : (State.enterRefusal reason ag ws s).drawIndex = s.drawIndex := rfl
@[simp] theorem State.enterRefusal_responses (reason : RefusalReason) (ag : Agent) (ws : List Word) : (State.enterRefusal reason ag ws s).responses = s.responses := rfl
@[simp] theorem State.enterRefusal_last (reason : RefusalReason) (ag : Agent) (ws : List Word) : (State.enterRefusal reason ag ws s).last = some .refused := rfl

/-! ### `emptied` -/

@[simp] theorem State.emptied_mem : (State.emptied s).mem = s.mem := rfl
@[simp] theorem State.emptied_head : (State.emptied s).head = 0 := rfl
@[simp] theorem State.emptied_tail : (State.emptied s).tail = 0 := rfl
@[simp] theorem State.emptied_count : (State.emptied s).count = 0 := rfl
@[simp] theorem State.emptied_mods : (State.emptied s).mods = s.mods := rfl
@[simp] theorem State.emptied_irqReg : (State.emptied s).irqReg = s.irqReg := rfl
@[simp] theorem State.emptied_rdActive : (State.emptied s).rdActive = s.rdActive := rfl
@[simp] theorem State.emptied_rdBase : (State.emptied s).rdBase = s.rdBase := rfl
@[simp] theorem State.emptied_rdReq : (State.emptied s).rdReq = s.rdReq := rfl
@[simp] theorem State.emptied_rdWritten : (State.emptied s).rdWritten = s.rdWritten := rfl
@[simp] theorem State.emptied_fault : (State.emptied s).fault = s.fault := rfl
@[simp] theorem State.emptied_refused : (State.emptied s).refused = s.refused := rfl
@[simp] theorem State.emptied_history : (State.emptied s).history = s.history := rfl
@[simp] theorem State.emptied_cmem : (State.emptied s).cmem = s.cmem := rfl
@[simp] theorem State.emptied_params : (State.emptied s).params = s.params := rfl
@[simp] theorem State.emptied_inbox : (State.emptied s).inbox = s.inbox := rfl
@[simp] theorem State.emptied_issuer : (State.emptied s).issuer = s.issuer := rfl
@[simp] theorem State.emptied_portAnswer : (State.emptied s).portAnswer = s.portAnswer := rfl
@[simp] theorem State.emptied_drawIndex : (State.emptied s).drawIndex = s.drawIndex := rfl
@[simp] theorem State.emptied_responses : (State.emptied s).responses = s.responses := rfl
@[simp] theorem State.emptied_last : (State.emptied s).last = s.last := rfl

/-! ### `stored` -/

@[simp] theorem State.stored_mem (b : Byte) : (State.stored b s).mem = s.mem.write s.tail b := rfl
@[simp] theorem State.stored_head (b : Byte) : (State.stored b s).head = s.head := rfl
@[simp] theorem State.stored_tail (b : Byte) : (State.stored b s).tail = nextIndex s.params.depth s.tail := rfl
@[simp] theorem State.stored_count (b : Byte) : (State.stored b s).count = s.count + 1 := rfl
@[simp] theorem State.stored_mods (b : Byte) : (State.stored b s).mods = s.mods := rfl
@[simp] theorem State.stored_irqReg (b : Byte) : (State.stored b s).irqReg = s.irqReg := rfl
@[simp] theorem State.stored_rdActive (b : Byte) : (State.stored b s).rdActive = s.rdActive := rfl
@[simp] theorem State.stored_rdBase (b : Byte) : (State.stored b s).rdBase = s.rdBase := rfl
@[simp] theorem State.stored_rdReq (b : Byte) : (State.stored b s).rdReq = s.rdReq := rfl
@[simp] theorem State.stored_rdWritten (b : Byte) : (State.stored b s).rdWritten = s.rdWritten := rfl
@[simp] theorem State.stored_fault (b : Byte) : (State.stored b s).fault = s.fault := rfl
@[simp] theorem State.stored_refused (b : Byte) : (State.stored b s).refused = s.refused := rfl
@[simp] theorem State.stored_history (b : Byte) : (State.stored b s).history = s.history := rfl
@[simp] theorem State.stored_cmem (b : Byte) : (State.stored b s).cmem = s.cmem := rfl
@[simp] theorem State.stored_params (b : Byte) : (State.stored b s).params = s.params := rfl
@[simp] theorem State.stored_inbox (b : Byte) : (State.stored b s).inbox = s.inbox := rfl
@[simp] theorem State.stored_issuer (b : Byte) : (State.stored b s).issuer = s.issuer := rfl
@[simp] theorem State.stored_portAnswer (b : Byte) : (State.stored b s).portAnswer = s.portAnswer := rfl
@[simp] theorem State.stored_drawIndex (b : Byte) : (State.stored b s).drawIndex = s.drawIndex := rfl
@[simp] theorem State.stored_responses (b : Byte) : (State.stored b s).responses = s.responses := rfl
@[simp] theorem State.stored_last (b : Byte) : (State.stored b s).last = s.last := rfl

/-! ### `removed` -/

@[simp] theorem State.removed_mem : (State.removed s).mem = s.mem := rfl
@[simp] theorem State.removed_head : (State.removed s).head = nextIndex s.params.depth s.head := rfl
@[simp] theorem State.removed_tail : (State.removed s).tail = s.tail := rfl
@[simp] theorem State.removed_count : (State.removed s).count = s.count - 1 := rfl
@[simp] theorem State.removed_mods : (State.removed s).mods = s.mods := rfl
@[simp] theorem State.removed_irqReg : (State.removed s).irqReg = s.irqReg := rfl
@[simp] theorem State.removed_rdActive : (State.removed s).rdActive = s.rdActive := rfl
@[simp] theorem State.removed_rdBase : (State.removed s).rdBase = s.rdBase := rfl
@[simp] theorem State.removed_rdReq : (State.removed s).rdReq = s.rdReq := rfl
@[simp] theorem State.removed_rdWritten : (State.removed s).rdWritten = s.rdWritten := rfl
@[simp] theorem State.removed_fault : (State.removed s).fault = s.fault := rfl
@[simp] theorem State.removed_refused : (State.removed s).refused = s.refused := rfl
@[simp] theorem State.removed_history : (State.removed s).history = s.history := rfl
@[simp] theorem State.removed_cmem : (State.removed s).cmem = s.cmem := rfl
@[simp] theorem State.removed_params : (State.removed s).params = s.params := rfl
@[simp] theorem State.removed_inbox : (State.removed s).inbox = s.inbox := rfl
@[simp] theorem State.removed_issuer : (State.removed s).issuer = s.issuer := rfl
@[simp] theorem State.removed_portAnswer : (State.removed s).portAnswer = s.portAnswer := rfl
@[simp] theorem State.removed_drawIndex : (State.removed s).drawIndex = s.drawIndex := rfl
@[simp] theorem State.removed_responses : (State.removed s).responses = s.responses := rfl
@[simp] theorem State.removed_last : (State.removed s).last = s.last := rfl

/-! ### `withMods` -/

@[simp] theorem State.withMods_mem (m : Modifiers) : (State.withMods m s).mem = s.mem := rfl
@[simp] theorem State.withMods_head (m : Modifiers) : (State.withMods m s).head = s.head := rfl
@[simp] theorem State.withMods_tail (m : Modifiers) : (State.withMods m s).tail = s.tail := rfl
@[simp] theorem State.withMods_count (m : Modifiers) : (State.withMods m s).count = s.count := rfl
@[simp] theorem State.withMods_mods (m : Modifiers) : (State.withMods m s).mods = m := rfl
@[simp] theorem State.withMods_irqReg (m : Modifiers) : (State.withMods m s).irqReg = s.irqReg := rfl
@[simp] theorem State.withMods_rdActive (m : Modifiers) : (State.withMods m s).rdActive = s.rdActive := rfl
@[simp] theorem State.withMods_rdBase (m : Modifiers) : (State.withMods m s).rdBase = s.rdBase := rfl
@[simp] theorem State.withMods_rdReq (m : Modifiers) : (State.withMods m s).rdReq = s.rdReq := rfl
@[simp] theorem State.withMods_rdWritten (m : Modifiers) : (State.withMods m s).rdWritten = s.rdWritten := rfl
@[simp] theorem State.withMods_fault (m : Modifiers) : (State.withMods m s).fault = s.fault := rfl
@[simp] theorem State.withMods_refused (m : Modifiers) : (State.withMods m s).refused = s.refused := rfl
@[simp] theorem State.withMods_history (m : Modifiers) : (State.withMods m s).history = s.history := rfl
@[simp] theorem State.withMods_cmem (m : Modifiers) : (State.withMods m s).cmem = s.cmem := rfl
@[simp] theorem State.withMods_params (m : Modifiers) : (State.withMods m s).params = s.params := rfl
@[simp] theorem State.withMods_inbox (m : Modifiers) : (State.withMods m s).inbox = s.inbox := rfl
@[simp] theorem State.withMods_issuer (m : Modifiers) : (State.withMods m s).issuer = s.issuer := rfl
@[simp] theorem State.withMods_portAnswer (m : Modifiers) : (State.withMods m s).portAnswer = s.portAnswer := rfl
@[simp] theorem State.withMods_drawIndex (m : Modifiers) : (State.withMods m s).drawIndex = s.drawIndex := rfl
@[simp] theorem State.withMods_responses (m : Modifiers) : (State.withMods m s).responses = s.responses := rfl
@[simp] theorem State.withMods_last (m : Modifiers) : (State.withMods m s).last = s.last := rfl

/-! ### `logged` -/

@[simp] theorem State.logged_mem (e : Event) : (State.logged e s).mem = s.mem := rfl
@[simp] theorem State.logged_head (e : Event) : (State.logged e s).head = s.head := rfl
@[simp] theorem State.logged_tail (e : Event) : (State.logged e s).tail = s.tail := rfl
@[simp] theorem State.logged_count (e : Event) : (State.logged e s).count = s.count := rfl
@[simp] theorem State.logged_mods (e : Event) : (State.logged e s).mods = s.mods := rfl
@[simp] theorem State.logged_irqReg (e : Event) : (State.logged e s).irqReg = s.irqReg := rfl
@[simp] theorem State.logged_rdActive (e : Event) : (State.logged e s).rdActive = s.rdActive := rfl
@[simp] theorem State.logged_rdBase (e : Event) : (State.logged e s).rdBase = s.rdBase := rfl
@[simp] theorem State.logged_rdReq (e : Event) : (State.logged e s).rdReq = s.rdReq := rfl
@[simp] theorem State.logged_rdWritten (e : Event) : (State.logged e s).rdWritten = s.rdWritten := rfl
@[simp] theorem State.logged_fault (e : Event) : (State.logged e s).fault = s.fault := rfl
@[simp] theorem State.logged_refused (e : Event) : (State.logged e s).refused = s.refused := rfl
@[simp] theorem State.logged_history (e : Event) : (State.logged e s).history = s.history ++ [e] := rfl
@[simp] theorem State.logged_cmem (e : Event) : (State.logged e s).cmem = s.cmem := rfl
@[simp] theorem State.logged_params (e : Event) : (State.logged e s).params = s.params := rfl
@[simp] theorem State.logged_inbox (e : Event) : (State.logged e s).inbox = s.inbox := rfl
@[simp] theorem State.logged_issuer (e : Event) : (State.logged e s).issuer = s.issuer := rfl
@[simp] theorem State.logged_portAnswer (e : Event) : (State.logged e s).portAnswer = s.portAnswer := rfl
@[simp] theorem State.logged_drawIndex (e : Event) : (State.logged e s).drawIndex = s.drawIndex := rfl
@[simp] theorem State.logged_responses (e : Event) : (State.logged e s).responses = s.responses := rfl
@[simp] theorem State.logged_last (e : Event) : (State.logged e s).last = s.last := rfl

/-! ### `drawn` -/

@[simp] theorem State.drawn_mem : (State.drawn s).mem = s.mem := rfl
@[simp] theorem State.drawn_head : (State.drawn s).head = s.head := rfl
@[simp] theorem State.drawn_tail : (State.drawn s).tail = s.tail := rfl
@[simp] theorem State.drawn_count : (State.drawn s).count = s.count := rfl
@[simp] theorem State.drawn_mods : (State.drawn s).mods = s.mods := rfl
@[simp] theorem State.drawn_irqReg : (State.drawn s).irqReg = s.irqReg := rfl
@[simp] theorem State.drawn_rdActive : (State.drawn s).rdActive = s.rdActive := rfl
@[simp] theorem State.drawn_rdBase : (State.drawn s).rdBase = s.rdBase := rfl
@[simp] theorem State.drawn_rdReq : (State.drawn s).rdReq = s.rdReq := rfl
@[simp] theorem State.drawn_rdWritten : (State.drawn s).rdWritten = s.rdWritten := rfl
@[simp] theorem State.drawn_fault : (State.drawn s).fault = s.fault := rfl
@[simp] theorem State.drawn_refused : (State.drawn s).refused = s.refused := rfl
@[simp] theorem State.drawn_history : (State.drawn s).history = s.history := rfl
@[simp] theorem State.drawn_cmem : (State.drawn s).cmem = s.cmem := rfl
@[simp] theorem State.drawn_params : (State.drawn s).params = s.params := rfl
@[simp] theorem State.drawn_inbox : (State.drawn s).inbox = s.inbox := rfl
@[simp] theorem State.drawn_issuer : (State.drawn s).issuer = s.issuer := rfl
@[simp] theorem State.drawn_portAnswer : (State.drawn s).portAnswer = none := rfl
@[simp] theorem State.drawn_drawIndex : (State.drawn s).drawIndex = s.drawIndex + 1 := rfl
@[simp] theorem State.drawn_responses : (State.drawn s).responses = s.responses := rfl
@[simp] theorem State.drawn_last : (State.drawn s).last = s.last := rfl

/-! ### `registered` -/

@[simp] theorem State.registered_mem : (State.registered s).mem = s.mem := rfl
@[simp] theorem State.registered_head : (State.registered s).head = s.head := rfl
@[simp] theorem State.registered_tail : (State.registered s).tail = s.tail := rfl
@[simp] theorem State.registered_count : (State.registered s).count = s.count := rfl
@[simp] theorem State.registered_mods : (State.registered s).mods = s.mods := rfl
@[simp] theorem State.registered_irqReg : (State.registered s).irqReg = true := rfl
@[simp] theorem State.registered_rdActive : (State.registered s).rdActive = s.rdActive := rfl
@[simp] theorem State.registered_rdBase : (State.registered s).rdBase = s.rdBase := rfl
@[simp] theorem State.registered_rdReq : (State.registered s).rdReq = s.rdReq := rfl
@[simp] theorem State.registered_rdWritten : (State.registered s).rdWritten = s.rdWritten := rfl
@[simp] theorem State.registered_fault : (State.registered s).fault = s.fault := rfl
@[simp] theorem State.registered_refused : (State.registered s).refused = s.refused := rfl
@[simp] theorem State.registered_history : (State.registered s).history = s.history := rfl
@[simp] theorem State.registered_cmem : (State.registered s).cmem = s.cmem := rfl
@[simp] theorem State.registered_params : (State.registered s).params = s.params := rfl
@[simp] theorem State.registered_inbox : (State.registered s).inbox = s.inbox := rfl
@[simp] theorem State.registered_issuer : (State.registered s).issuer = s.issuer := rfl
@[simp] theorem State.registered_portAnswer : (State.registered s).portAnswer = s.portAnswer := rfl
@[simp] theorem State.registered_drawIndex : (State.registered s).drawIndex = s.drawIndex := rfl
@[simp] theorem State.registered_responses : (State.registered s).responses = s.responses := rfl
@[simp] theorem State.registered_last : (State.registered s).last = s.last := rfl

/-! ### `readBegun` -/

@[simp] theorem State.readBegun_mem (cnt : Count24) (base : Word) : (State.readBegun cnt base s).mem = s.mem := rfl
@[simp] theorem State.readBegun_head (cnt : Count24) (base : Word) : (State.readBegun cnt base s).head = s.head := rfl
@[simp] theorem State.readBegun_tail (cnt : Count24) (base : Word) : (State.readBegun cnt base s).tail = s.tail := rfl
@[simp] theorem State.readBegun_count (cnt : Count24) (base : Word) : (State.readBegun cnt base s).count = s.count := rfl
@[simp] theorem State.readBegun_mods (cnt : Count24) (base : Word) : (State.readBegun cnt base s).mods = s.mods := rfl
@[simp] theorem State.readBegun_irqReg (cnt : Count24) (base : Word) : (State.readBegun cnt base s).irqReg = s.irqReg := rfl
@[simp] theorem State.readBegun_rdActive (cnt : Count24) (base : Word) : (State.readBegun cnt base s).rdActive = true := rfl
@[simp] theorem State.readBegun_rdBase (cnt : Count24) (base : Word) : (State.readBegun cnt base s).rdBase = base := rfl
@[simp] theorem State.readBegun_rdReq (cnt : Count24) (base : Word) : (State.readBegun cnt base s).rdReq = cnt := rfl
@[simp] theorem State.readBegun_rdWritten (cnt : Count24) (base : Word) : (State.readBegun cnt base s).rdWritten = 0 := rfl
@[simp] theorem State.readBegun_fault (cnt : Count24) (base : Word) : (State.readBegun cnt base s).fault = s.fault := rfl
@[simp] theorem State.readBegun_refused (cnt : Count24) (base : Word) : (State.readBegun cnt base s).refused = s.refused := rfl
@[simp] theorem State.readBegun_history (cnt : Count24) (base : Word) : (State.readBegun cnt base s).history = s.history := rfl
@[simp] theorem State.readBegun_cmem (cnt : Count24) (base : Word) : (State.readBegun cnt base s).cmem = s.cmem := rfl
@[simp] theorem State.readBegun_params (cnt : Count24) (base : Word) : (State.readBegun cnt base s).params = s.params := rfl
@[simp] theorem State.readBegun_inbox (cnt : Count24) (base : Word) : (State.readBegun cnt base s).inbox = s.inbox := rfl
@[simp] theorem State.readBegun_issuer (cnt : Count24) (base : Word) : (State.readBegun cnt base s).issuer = s.issuer := rfl
@[simp] theorem State.readBegun_portAnswer (cnt : Count24) (base : Word) : (State.readBegun cnt base s).portAnswer = s.portAnswer := rfl
@[simp] theorem State.readBegun_drawIndex (cnt : Count24) (base : Word) : (State.readBegun cnt base s).drawIndex = s.drawIndex := rfl
@[simp] theorem State.readBegun_responses (cnt : Count24) (base : Word) : (State.readBegun cnt base s).responses = s.responses := rfl
@[simp] theorem State.readBegun_last (cnt : Count24) (base : Word) : (State.readBegun cnt base s).last = s.last := rfl

/-! ### `charWritten` -/

@[simp] theorem State.charWritten_mem (c : Byte) : (State.charWritten c s).mem = s.mem := rfl
@[simp] theorem State.charWritten_head (c : Byte) : (State.charWritten c s).head = s.head := rfl
@[simp] theorem State.charWritten_tail (c : Byte) : (State.charWritten c s).tail = s.tail := rfl
@[simp] theorem State.charWritten_count (c : Byte) : (State.charWritten c s).count = s.count := rfl
@[simp] theorem State.charWritten_mods (c : Byte) : (State.charWritten c s).mods = s.mods := rfl
@[simp] theorem State.charWritten_irqReg (c : Byte) : (State.charWritten c s).irqReg = s.irqReg := rfl
@[simp] theorem State.charWritten_rdActive (c : Byte) : (State.charWritten c s).rdActive = s.rdActive := rfl
@[simp] theorem State.charWritten_rdBase (c : Byte) : (State.charWritten c s).rdBase = s.rdBase := rfl
@[simp] theorem State.charWritten_rdReq (c : Byte) : (State.charWritten c s).rdReq = s.rdReq := rfl
@[simp] theorem State.charWritten_rdWritten (c : Byte) : (State.charWritten c s).rdWritten = s.rdWritten + 1 := rfl
@[simp] theorem State.charWritten_fault (c : Byte) : (State.charWritten c s).fault = s.fault := rfl
@[simp] theorem State.charWritten_refused (c : Byte) : (State.charWritten c s).refused = s.refused := rfl
@[simp] theorem State.charWritten_history (c : Byte) : (State.charWritten c s).history = s.history ++ [.memWrite s.outAddr c] := rfl
@[simp] theorem State.charWritten_cmem (c : Byte) : (State.charWritten c s).cmem = s.cmem.write s.outAddr c := rfl
@[simp] theorem State.charWritten_params (c : Byte) : (State.charWritten c s).params = s.params := rfl
@[simp] theorem State.charWritten_inbox (c : Byte) : (State.charWritten c s).inbox = s.inbox := rfl
@[simp] theorem State.charWritten_issuer (c : Byte) : (State.charWritten c s).issuer = s.issuer := rfl
@[simp] theorem State.charWritten_portAnswer (c : Byte) : (State.charWritten c s).portAnswer = s.portAnswer := rfl
@[simp] theorem State.charWritten_drawIndex (c : Byte) : (State.charWritten c s).drawIndex = s.drawIndex := rfl
@[simp] theorem State.charWritten_responses (c : Byte) : (State.charWritten c s).responses = s.responses := rfl
@[simp] theorem State.charWritten_last (c : Byte) : (State.charWritten c s).last = s.last := rfl

/-! ### `readEnded` -/

@[simp] theorem State.readEnded_mem : (State.readEnded s).mem = s.mem := rfl
@[simp] theorem State.readEnded_head : (State.readEnded s).head = s.head := rfl
@[simp] theorem State.readEnded_tail : (State.readEnded s).tail = s.tail := rfl
@[simp] theorem State.readEnded_count : (State.readEnded s).count = s.count := rfl
@[simp] theorem State.readEnded_mods : (State.readEnded s).mods = s.mods := rfl
@[simp] theorem State.readEnded_irqReg : (State.readEnded s).irqReg = s.irqReg := rfl
@[simp] theorem State.readEnded_rdActive : (State.readEnded s).rdActive = false := rfl
@[simp] theorem State.readEnded_rdBase : (State.readEnded s).rdBase = s.rdBase := rfl
@[simp] theorem State.readEnded_rdReq : (State.readEnded s).rdReq = s.rdReq := rfl
@[simp] theorem State.readEnded_rdWritten : (State.readEnded s).rdWritten = s.rdWritten := rfl
@[simp] theorem State.readEnded_fault : (State.readEnded s).fault = s.fault := rfl
@[simp] theorem State.readEnded_refused : (State.readEnded s).refused = s.refused := rfl
@[simp] theorem State.readEnded_history : (State.readEnded s).history = s.history := rfl
@[simp] theorem State.readEnded_cmem : (State.readEnded s).cmem = s.cmem := rfl
@[simp] theorem State.readEnded_params : (State.readEnded s).params = s.params := rfl
@[simp] theorem State.readEnded_inbox : (State.readEnded s).inbox = s.inbox := rfl
@[simp] theorem State.readEnded_issuer : (State.readEnded s).issuer = s.issuer := rfl
@[simp] theorem State.readEnded_portAnswer : (State.readEnded s).portAnswer = s.portAnswer := rfl
@[simp] theorem State.readEnded_drawIndex : (State.readEnded s).drawIndex = s.drawIndex := rfl
@[simp] theorem State.readEnded_responses : (State.readEnded s).responses = s.responses := rfl
@[simp] theorem State.readEnded_last : (State.readEnded s).last = s.last := rfl

/-! ### `accepted` -/

@[simp] theorem State.accepted_mem (a : Attempt) (rest : List Attempt) : (State.accepted a rest s).mem = s.mem := rfl
@[simp] theorem State.accepted_head (a : Attempt) (rest : List Attempt) : (State.accepted a rest s).head = s.head := rfl
@[simp] theorem State.accepted_tail (a : Attempt) (rest : List Attempt) : (State.accepted a rest s).tail = s.tail := rfl
@[simp] theorem State.accepted_count (a : Attempt) (rest : List Attempt) : (State.accepted a rest s).count = s.count := rfl
@[simp] theorem State.accepted_mods (a : Attempt) (rest : List Attempt) : (State.accepted a rest s).mods = s.mods := rfl
@[simp] theorem State.accepted_irqReg (a : Attempt) (rest : List Attempt) : (State.accepted a rest s).irqReg = s.irqReg := rfl
@[simp] theorem State.accepted_rdActive (a : Attempt) (rest : List Attempt) : (State.accepted a rest s).rdActive = s.rdActive := rfl
@[simp] theorem State.accepted_rdBase (a : Attempt) (rest : List Attempt) : (State.accepted a rest s).rdBase = s.rdBase := rfl
@[simp] theorem State.accepted_rdReq (a : Attempt) (rest : List Attempt) : (State.accepted a rest s).rdReq = s.rdReq := rfl
@[simp] theorem State.accepted_rdWritten (a : Attempt) (rest : List Attempt) : (State.accepted a rest s).rdWritten = s.rdWritten := rfl
@[simp] theorem State.accepted_fault (a : Attempt) (rest : List Attempt) : (State.accepted a rest s).fault = s.fault := rfl
@[simp] theorem State.accepted_refused (a : Attempt) (rest : List Attempt) : (State.accepted a rest s).refused = s.refused := rfl
@[simp] theorem State.accepted_history (a : Attempt) (rest : List Attempt) : (State.accepted a rest s).history = s.history := rfl
@[simp] theorem State.accepted_cmem (a : Attempt) (rest : List Attempt) : (State.accepted a rest s).cmem = s.cmem := rfl
@[simp] theorem State.accepted_params (a : Attempt) (rest : List Attempt) : (State.accepted a rest s).params = s.params := rfl
@[simp] theorem State.accepted_inbox (a : Attempt) (rest : List Attempt) : (State.accepted a rest s).inbox = rest := rfl
@[simp] theorem State.accepted_issuer (a : Attempt) (rest : List Attempt) : (State.accepted a rest s).issuer = a.agent := rfl
@[simp] theorem State.accepted_portAnswer (a : Attempt) (rest : List Attempt) : (State.accepted a rest s).portAnswer = a.answer := rfl
@[simp] theorem State.accepted_drawIndex (a : Attempt) (rest : List Attempt) : (State.accepted a rest s).drawIndex = s.drawIndex := rfl
@[simp] theorem State.accepted_responses (a : Attempt) (rest : List Attempt) : (State.accepted a rest s).responses = s.responses := rfl
@[simp] theorem State.accepted_last (a : Attempt) (rest : List Attempt) : (State.accepted a rest s).last = s.last := rfl

/-! ### `offered` -/

@[simp] theorem State.offered_mem (c : Command) : (State.offered c s).mem = s.mem := rfl
@[simp] theorem State.offered_head (c : Command) : (State.offered c s).head = s.head := rfl
@[simp] theorem State.offered_tail (c : Command) : (State.offered c s).tail = s.tail := rfl
@[simp] theorem State.offered_count (c : Command) : (State.offered c s).count = s.count := rfl
@[simp] theorem State.offered_mods (c : Command) : (State.offered c s).mods = s.mods := rfl
@[simp] theorem State.offered_irqReg (c : Command) : (State.offered c s).irqReg = s.irqReg := rfl
@[simp] theorem State.offered_rdActive (c : Command) : (State.offered c s).rdActive = s.rdActive := rfl
@[simp] theorem State.offered_rdBase (c : Command) : (State.offered c s).rdBase = s.rdBase := rfl
@[simp] theorem State.offered_rdReq (c : Command) : (State.offered c s).rdReq = s.rdReq := rfl
@[simp] theorem State.offered_rdWritten (c : Command) : (State.offered c s).rdWritten = s.rdWritten := rfl
@[simp] theorem State.offered_fault (c : Command) : (State.offered c s).fault = s.fault := rfl
@[simp] theorem State.offered_refused (c : Command) : (State.offered c s).refused = s.refused := rfl
@[simp] theorem State.offered_history (c : Command) : (State.offered c s).history = s.history := rfl
@[simp] theorem State.offered_cmem (c : Command) : (State.offered c s).cmem = s.cmem := rfl
@[simp] theorem State.offered_params (c : Command) : (State.offered c s).params = s.params := rfl
@[simp] theorem State.offered_inbox (c : Command) : (State.offered c s).inbox = .issue (issuingAgent s.params.addrW c) c none :: s.inbox := rfl
@[simp] theorem State.offered_issuer (c : Command) : (State.offered c s).issuer = s.issuer := rfl
@[simp] theorem State.offered_portAnswer (c : Command) : (State.offered c s).portAnswer = s.portAnswer := rfl
@[simp] theorem State.offered_drawIndex (c : Command) : (State.offered c s).drawIndex = s.drawIndex := rfl
@[simp] theorem State.offered_responses (c : Command) : (State.offered c s).responses = s.responses := rfl
@[simp] theorem State.offered_last (c : Command) : (State.offered c s).last = s.last := rfl

/-! ### `issuedBy` -/

@[simp] theorem State.issuedBy_mem (ag : Agent) : (State.issuedBy ag s).mem = s.mem := rfl
@[simp] theorem State.issuedBy_head (ag : Agent) : (State.issuedBy ag s).head = s.head := rfl
@[simp] theorem State.issuedBy_tail (ag : Agent) : (State.issuedBy ag s).tail = s.tail := rfl
@[simp] theorem State.issuedBy_count (ag : Agent) : (State.issuedBy ag s).count = s.count := rfl
@[simp] theorem State.issuedBy_mods (ag : Agent) : (State.issuedBy ag s).mods = s.mods := rfl
@[simp] theorem State.issuedBy_irqReg (ag : Agent) : (State.issuedBy ag s).irqReg = s.irqReg := rfl
@[simp] theorem State.issuedBy_rdActive (ag : Agent) : (State.issuedBy ag s).rdActive = s.rdActive := rfl
@[simp] theorem State.issuedBy_rdBase (ag : Agent) : (State.issuedBy ag s).rdBase = s.rdBase := rfl
@[simp] theorem State.issuedBy_rdReq (ag : Agent) : (State.issuedBy ag s).rdReq = s.rdReq := rfl
@[simp] theorem State.issuedBy_rdWritten (ag : Agent) : (State.issuedBy ag s).rdWritten = s.rdWritten := rfl
@[simp] theorem State.issuedBy_fault (ag : Agent) : (State.issuedBy ag s).fault = s.fault := rfl
@[simp] theorem State.issuedBy_refused (ag : Agent) : (State.issuedBy ag s).refused = s.refused := rfl
@[simp] theorem State.issuedBy_history (ag : Agent) : (State.issuedBy ag s).history = s.history := rfl
@[simp] theorem State.issuedBy_cmem (ag : Agent) : (State.issuedBy ag s).cmem = s.cmem := rfl
@[simp] theorem State.issuedBy_params (ag : Agent) : (State.issuedBy ag s).params = s.params := rfl
@[simp] theorem State.issuedBy_inbox (ag : Agent) : (State.issuedBy ag s).inbox = s.inbox := rfl
@[simp] theorem State.issuedBy_issuer (ag : Agent) : (State.issuedBy ag s).issuer = ag := rfl
@[simp] theorem State.issuedBy_portAnswer (ag : Agent) : (State.issuedBy ag s).portAnswer = s.portAnswer := rfl
@[simp] theorem State.issuedBy_drawIndex (ag : Agent) : (State.issuedBy ag s).drawIndex = s.drawIndex := rfl
@[simp] theorem State.issuedBy_responses (ag : Agent) : (State.issuedBy ag s).responses = s.responses := rfl
@[simp] theorem State.issuedBy_last (ag : Agent) : (State.issuedBy ag s).last = s.last := rfl

end Sys2Proof.Machine
end

