-- ==== Sys2Proof/Laws/Ops.lean ====
section
/-! SUPPORT. One specification lemma per shared operation, which proofs cite instead of unfolding it. -/

namespace Sys2Proof.Machine

variable (s : State)

/-! ### The push -/

/-- A push on a full FIFO changes nothing. -/
theorem State.pushed_of_full {s : State} (b : Byte) (h : s.isFull = true) : s.pushed b = s := by simp [State.pushed, h]

/-- A push with room stores the byte. -/
theorem State.pushed_of_room {s : State} (b : Byte) (h : s.isFull = false) : s.pushed b = s.stored b := by
  simp [State.pushed, h]

/-- All a push can do. -/
theorem State.pushed_cases (s : State) (b : Byte) :
    (s.count = s.params.depth ∧ s.pushed b = s) ∨ (s.count ≠ s.params.depth ∧ s.pushed b = s.stored b) := by
  by_cases h : s.count = s.params.depth
  · exact .inl ⟨h, State.pushed_of_full b (by simp [State.isFull, h])⟩
  · exact .inr ⟨h, State.pushed_of_room b (by simp [State.isFull, h])⟩

/-! ### What a push leaves alone, and the updates it commutes with -/

@[simp] theorem State.pushed_head (b : Byte) : (s.pushed b).head = s.head := by
  rcases s.pushed_cases b with ⟨-, h⟩ | ⟨-, h⟩ <;> simp [h]
@[simp] theorem State.pushed_mods (b : Byte) : (s.pushed b).mods = s.mods := by
  rcases s.pushed_cases b with ⟨-, h⟩ | ⟨-, h⟩ <;> simp [h]
@[simp] theorem State.pushed_irqReg (b : Byte) : (s.pushed b).irqReg = s.irqReg := by
  rcases s.pushed_cases b with ⟨-, h⟩ | ⟨-, h⟩ <;> simp [h]
@[simp] theorem State.pushed_rdActive (b : Byte) : (s.pushed b).rdActive = s.rdActive := by
  rcases s.pushed_cases b with ⟨-, h⟩ | ⟨-, h⟩ <;> simp [h]
@[simp] theorem State.pushed_rdBase (b : Byte) : (s.pushed b).rdBase = s.rdBase := by
  rcases s.pushed_cases b with ⟨-, h⟩ | ⟨-, h⟩ <;> simp [h]
@[simp] theorem State.pushed_rdReq (b : Byte) : (s.pushed b).rdReq = s.rdReq := by
  rcases s.pushed_cases b with ⟨-, h⟩ | ⟨-, h⟩ <;> simp [h]
@[simp] theorem State.pushed_rdWritten (b : Byte) : (s.pushed b).rdWritten = s.rdWritten := by
  rcases s.pushed_cases b with ⟨-, h⟩ | ⟨-, h⟩ <;> simp [h]
@[simp] theorem State.pushed_fault (b : Byte) : (s.pushed b).fault = s.fault := by
  rcases s.pushed_cases b with ⟨-, h⟩ | ⟨-, h⟩ <;> simp [h]
@[simp] theorem State.pushed_refused (b : Byte) : (s.pushed b).refused = s.refused := by
  rcases s.pushed_cases b with ⟨-, h⟩ | ⟨-, h⟩ <;> simp [h]
@[simp] theorem State.pushed_history (b : Byte) : (s.pushed b).history = s.history := by
  rcases s.pushed_cases b with ⟨-, h⟩ | ⟨-, h⟩ <;> simp [h]
@[simp] theorem State.pushed_cmem (b : Byte) : (s.pushed b).cmem = s.cmem := by
  rcases s.pushed_cases b with ⟨-, h⟩ | ⟨-, h⟩ <;> simp [h]
@[simp] theorem State.pushed_params (b : Byte) : (s.pushed b).params = s.params := by
  rcases s.pushed_cases b with ⟨-, h⟩ | ⟨-, h⟩ <;> simp [h]
@[simp] theorem State.pushed_inbox (b : Byte) : (s.pushed b).inbox = s.inbox := by
  rcases s.pushed_cases b with ⟨-, h⟩ | ⟨-, h⟩ <;> simp [h]
@[simp] theorem State.pushed_issuer (b : Byte) : (s.pushed b).issuer = s.issuer := by
  rcases s.pushed_cases b with ⟨-, h⟩ | ⟨-, h⟩ <;> simp [h]
@[simp] theorem State.pushed_portAnswer (b : Byte) : (s.pushed b).portAnswer = s.portAnswer := by
  rcases s.pushed_cases b with ⟨-, h⟩ | ⟨-, h⟩ <;> simp [h]
@[simp] theorem State.pushed_drawIndex (b : Byte) : (s.pushed b).drawIndex = s.drawIndex := by
  rcases s.pushed_cases b with ⟨-, h⟩ | ⟨-, h⟩ <;> simp [h]
@[simp] theorem State.pushed_responses (b : Byte) : (s.pushed b).responses = s.responses := by
  rcases s.pushed_cases b with ⟨-, h⟩ | ⟨-, h⟩ <;> simp [h]
@[simp] theorem State.pushed_last (b : Byte) : (s.pushed b).last = s.last := by
  rcases s.pushed_cases b with ⟨-, h⟩ | ⟨-, h⟩ <;> simp [h]

/-- A push and an update that keeps the storage, TAIL, COUNT and N can be done in either order. -/
theorem State.pushed_comm {f : State → State} (hc : ∀ s, (f s).count = s.count) (hp : ∀ s, (f s).params = s.params)
    (hf : ∀ s b, (f s).stored b = f (s.stored b)) (s : State) (b : Byte) : (f s).pushed b = f (s.pushed b) := by
  rcases s.pushed_cases b with ⟨h, e⟩ | ⟨h, e⟩ <;> rw [e]
  · exact State.pushed_of_full b (by simp [State.isFull, hc, hp, h])
  · rw [State.pushed_of_room b (by simp [State.isFull, hc, hp, h]), hf]

theorem State.pushed_logged (e : Event) (b : Byte) : (s.logged e).pushed b = (s.pushed b).logged e :=
  State.pushed_comm (f := State.logged e) (fun _ => rfl) (fun _ => rfl) (fun _ _ => rfl) s b

theorem State.pushed_drawn (b : Byte) : s.drawn.pushed b = (s.pushed b).drawn :=
  State.pushed_comm (f := State.drawn) (fun _ => rfl) (fun _ => rfl) (fun _ _ => rfl) s b

theorem State.pushed_accepted (a : Attempt) (rest : List Attempt) (b : Byte) :
    (s.accepted a rest).pushed b = (s.pushed b).accepted a rest :=
  State.pushed_comm (f := State.accepted a rest) (fun _ => rfl) (fun _ => rfl) (fun _ _ => rfl) s b

theorem State.pushed_issuedBy (ag : Agent) (b : Byte) : (s.issuedBy ag).pushed b = (s.pushed b).issuedBy ag :=
  State.pushed_comm (f := State.issuedBy ag) (fun _ => rfl) (fun _ => rfl) (fun _ _ => rfl) s b

/-! ### The checks of an issued command -/

/-- Check 4 of R207. -/
theorem checked_of_wrongAgent {i : Instr} {s : State} (body : State → State) (h : s.issuer ≠ i.agent) :
    checked i body s = s.enterRefusal .wrongAgent s.issuer (encode i).words := by simp [checked, h]

/-- Check 5 of R207. -/
theorem checked_of_busy {i : Instr} {s : State} (body : State → State) (h : s.issuer = i.agent)
    (hc : s.issuer = .consumer) (hb : s.rdActive = true) :
    checked i body s = s.enterRefusal .consumerBusy s.issuer (encode i).words := by
  rw [checked, if_neg (not_not_intro h), if_pos ⟨hc, hb⟩]

/-- A command of the Producer passes the checks when the Producer issues it. -/
theorem checked_producer {i : Instr} {s : State} (body : State → State) (hi : i.agent = .producer)
    (h : s.issuer = .producer) : checked i body s = body s := by simp [checked, hi, h]

/-- A command of the Consumer passes the checks when the Consumer issues it outside a READ call. -/
theorem checked_consumer {i : Instr} {s : State} (body : State → State) (hi : i.agent = .consumer)
    (h : s.issuer = .consumer) (hb : s.rdActive = false) : checked i body s = body s := by simp [checked, hi, h, hb]

/-- All the checks can do. -/
theorem checked_cases (i : Instr) (body : State → State) (s : State) :
    (s.issuer ≠ i.agent ∧ checked i body s = s.enterRefusal .wrongAgent s.issuer (encode i).words) ∨
    (s.issuer = i.agent ∧ s.issuer = .consumer ∧ s.rdActive = true ∧
      checked i body s = s.enterRefusal .consumerBusy s.issuer (encode i).words) ∨
    (s.issuer = i.agent ∧ (s.issuer = .consumer → s.rdActive = false) ∧ checked i body s = body s) := by
  by_cases h : s.issuer = i.agent
  · by_cases hb : s.issuer = .consumer ∧ s.rdActive = true
    · exact .inr (.inl ⟨h, hb.1, hb.2, checked_of_busy body h hb.1 hb.2⟩)
    · refine .inr (.inr ⟨h, fun hc => ?_, by simp [checked, h, h ▸ hb]⟩)
      cases hr : s.rdActive
      · rfl
      · exact absurd ⟨hc, hr⟩ hb
  · exact .inl ⟨h, checked_of_wrongAgent body h⟩

end Sys2Proof.Machine
end

