-- ==== Sys2Proof/Laws/Fifo.lean ====
section
/-! SUPPORT. The FIFO invariants one by one, and the abstract queue under a push, a pop and an emptying (10_state.md R25, R26). -/

namespace Sys2Proof.Machine

/-! ### The invariants of R25 -/

/-- What `brokenInvariant = none` says, as propositions. -/
theorem State.brokenInvariant_eq_none (s : State) :
    s.brokenInvariant = none ↔
      s.count ≤ s.params.depth ∧ (s.head < s.params.depth ∧ s.tail < s.params.depth) ∧
      s.tail = (s.head + s.count) % s.params.depth ∧ (s.count = 0 → s.head = s.tail) ∧
      (s.head = s.tail → s.count = 0 ∨ s.count = s.params.depth) ∧
      ∀ i, i < s.count → (s.mem.read (s.slot i)).isSome = true := by
  have h4 : s.inv4 = true ↔ (s.count = 0 → s.head = s.tail) := by simp [State.inv4, Decidable.imp_iff_not_or]
  have h5 : s.inv5 = true ↔ (s.head = s.tail → s.count = 0 ∨ s.count = s.params.depth) := by
    simp [State.inv5, Decidable.imp_iff_not_or]
  have h6 : s.inv6 = true ↔ ∀ i, i < s.count → (s.mem.read (s.slot i)).isSome = true := by simp [State.inv6]
  have h3 : s.inv3 = true ↔ s.tail = (s.head + s.count) % s.params.depth := by simp [State.inv3]
  have h2 : s.inv2 = true ↔ s.head < s.params.depth ∧ s.tail < s.params.depth := by simp [State.inv2]
  have h1 : s.inv1 = true ↔ s.count ≤ s.params.depth := by simp [State.inv1]
  rw [← h1, ← h2, ← h3, ← h4, ← h5, ← h6]
  simp only [State.brokenInvariant]
  cases s.inv1 <;> cases s.inv2 <;> cases s.inv3 <;> cases s.inv4 <;> cases s.inv5 <;> cases s.inv6 <;> simp

/-- Invariants 4 and 5 follow from 1, 2 and 3. -/
theorem State.brokenInvariant_eq_none_of {s : State} (h1 : s.count ≤ s.params.depth) (h2 : s.head < s.params.depth)
    (h3 : s.tail = (s.head + s.count) % s.params.depth)
    (h6 : ∀ i, i < s.count → (s.mem.read (s.slot i)).isSome = true) : s.brokenInvariant = none := by
  refine (State.brokenInvariant_eq_none s).2 ⟨h1, ⟨h2, ?_⟩, h3, ?_, ?_, h6⟩
  · rw [h3]; exact Nat.mod_lt _ (by omega)
  · intro h; rw [h3, h, Nat.add_zero, Nat.mod_eq_of_lt h2]
  · intro h
    by_cases hc : s.head + s.count < s.params.depth
    · rw [Nat.mod_eq_of_lt hc] at h3; omega
    · rw [Nat.mod_eq_sub_mod (by omega)] at h3
      by_cases hf : s.count = s.params.depth
      · exact .inr hf
      · rw [Nat.mod_eq_of_lt (by omega)] at h3; omega

/-- The slots of different entries are different. -/
theorem slot_ne {n h i c : Nat} (hic : i < c) (hc : c < n) : (h + i) % n ≠ (h + c) % n := by
  intro he
  have : i ≡ c [MOD n] := Nat.ModEq.add_left_cancel' h he
  exact absurd (Nat.ModEq.eq_of_lt_of_lt this (by omega) hc) (by omega)

/-! ### The queue -/

/-- The queue depends on the storage, HEAD, COUNT and N alone. -/
theorem State.queue_congr {s t : State} (hm : ∀ i, i < s.count → t.mem.read (t.slot i) = s.mem.read (s.slot i))
    (hc : t.count = s.count) : t.queue = s.queue := by
  unfold State.queue
  rw [hc]
  exact List.filterMap_congr fun i hi => hm i (List.mem_range.1 hi)

/-- No entry of the queue is missing. -/
theorem State.queue_length {s : State} (h6 : ∀ i, i < s.count → (s.mem.read (s.slot i)).isSome = true) :
    s.queue.length = s.count := by
  unfold State.queue
  generalize s.count = c at h6
  induction c with
  | zero => rfl
  | succ c ih =>
    obtain ⟨v, hv⟩ := Option.isSome_iff_exists.1 (h6 c (by omega))
    simp [List.range_succ, hv, ih fun i hi => h6 i (by omega)]

@[simp] theorem State.queue_emptied (s : State) : s.emptied.queue = [] := rfl

/-- A push with room appends. -/
theorem State.queue_stored {s : State} (b : Byte) (h1 : s.count < s.params.depth)
    (h3 : s.tail = (s.head + s.count) % s.params.depth) : (s.stored b).queue = s.queue ++ [b] := by
  unfold State.queue
  simp only [State.stored_count, State.stored_mem, List.range_succ, List.filterMap_append]
  congr 1
  · refine List.filterMap_congr fun i hi => ?_
    have hi' := List.mem_range.1 hi
    exact Memory.read_write_other _ b (by rw [h3]; exact slot_ne hi' h1)
  · simp only [List.filterMap_cons, List.filterMap_nil, State.slot, State.stored_head, State.stored_params, ← h3,
      Memory.read_write_same]

/-- A pop takes the first entry. -/
theorem State.queue_removed {s : State} {v : Byte} (h0 : 0 < s.count) (h2 : s.head < s.params.depth)
    (hv : s.mem.read s.head = some v) : s.queue = v :: s.removed.queue := by
  obtain ⟨c, hc⟩ : ∃ c, s.count = c + 1 := ⟨s.count - 1, by omega⟩
  unfold State.queue
  simp only [State.removed_count, State.removed_mem, hc, Nat.add_sub_cancel, List.range_succ_eq_map,
    List.filterMap_cons, List.filterMap_map]
  rw [show s.slot 0 = s.head by simp [State.slot, Nat.mod_eq_of_lt h2], hv]
  refine congrArg (v :: ·) (List.filterMap_congr fun i _ => ?_)
  simp only [Function.comp, State.slot, State.removed_head, State.removed_params, nextIndex, Nat.mod_add_mod]
  rw [show s.head + 1 + i = s.head + i.succ by omega]

/-- The entry at HEAD of a FIFO that is not empty is written. -/
theorem State.head_written {s : State} (h : s.brokenInvariant = none) (h0 : 0 < s.count) :
    ∃ v, s.mem.read s.head = some v := by
  obtain ⟨-, ⟨h2, -⟩, -, -, -, h6⟩ := (State.brokenInvariant_eq_none s).1 h
  have := h6 0 h0
  rw [show s.slot 0 = s.head by simp [State.slot, Nat.mod_eq_of_lt h2]] at this
  exact Option.isSome_iff_exists.1 this

/-! ### The updates outside the FIFO change neither the invariants nor the queue -/

/-- The FIFO invariants depend on the storage, HEAD, TAIL, COUNT and N alone. -/
theorem State.brokenInvariant_congr {s t : State} (hm : t.mem = s.mem) (hh : t.head = s.head) (ht : t.tail = s.tail)
    (hc : t.count = s.count) (hp : t.params = s.params) : t.brokenInvariant = s.brokenInvariant := by
  simp [State.brokenInvariant, State.inv1, State.inv2, State.inv3, State.inv4, State.inv5, State.inv6, State.slot, hm, hh, ht,
    hc, hp]

/-- Two states with the same storage, HEAD, COUNT and N have the same queue. -/
theorem State.queue_eq_of {s t : State} (hm : t.mem = s.mem) (hh : t.head = s.head) (hc : t.count = s.count)
    (hp : t.params = s.params) : t.queue = s.queue := by
  simp [State.queue, State.slot, hm, hh, hc, hp]

@[simp] theorem State.brokenInvariant_respond (s : State) (ag : Agent) (w : Word) :
    (s.respond ag w).brokenInvariant = s.brokenInvariant := State.brokenInvariant_congr rfl rfl rfl rfl rfl
@[simp] theorem State.queue_respond (s : State) (ag : Agent) (w : Word) : (s.respond ag w).queue = s.queue := State.queue_eq_of rfl rfl rfl rfl
@[simp] theorem State.brokenInvariant_ranSilently (s : State) :
    (s.ranSilently).brokenInvariant = s.brokenInvariant := State.brokenInvariant_congr rfl rfl rfl rfl rfl
@[simp] theorem State.queue_ranSilently (s : State) : (s.ranSilently).queue = s.queue := State.queue_eq_of rfl rfl rfl rfl
@[simp] theorem State.brokenInvariant_noStep (s : State) :
    (s.noStep).brokenInvariant = s.brokenInvariant := State.brokenInvariant_congr rfl rfl rfl rfl rfl
@[simp] theorem State.queue_noStep (s : State) : (s.noStep).queue = s.queue := State.queue_eq_of rfl rfl rfl rfl
@[simp] theorem State.brokenInvariant_enterFault (s : State) (c : FaultCause) (ag : Agent) (ws : List Word) :
    (s.enterFault c ag ws).brokenInvariant = s.brokenInvariant := State.brokenInvariant_congr rfl rfl rfl rfl rfl
@[simp] theorem State.queue_enterFault (s : State) (c : FaultCause) (ag : Agent) (ws : List Word) : (s.enterFault c ag ws).queue = s.queue := State.queue_eq_of rfl rfl rfl rfl
@[simp] theorem State.brokenInvariant_enterRefusal (s : State) (r : RefusalReason) (ag : Agent) (ws : List Word) :
    (s.enterRefusal r ag ws).brokenInvariant = s.brokenInvariant := State.brokenInvariant_congr rfl rfl rfl rfl rfl
@[simp] theorem State.queue_enterRefusal (s : State) (r : RefusalReason) (ag : Agent) (ws : List Word) : (s.enterRefusal r ag ws).queue = s.queue := State.queue_eq_of rfl rfl rfl rfl
@[simp] theorem State.brokenInvariant_withMods (s : State) (m : Modifiers) :
    (s.withMods m).brokenInvariant = s.brokenInvariant := State.brokenInvariant_congr rfl rfl rfl rfl rfl
@[simp] theorem State.queue_withMods (s : State) (m : Modifiers) : (s.withMods m).queue = s.queue := State.queue_eq_of rfl rfl rfl rfl
@[simp] theorem State.brokenInvariant_logged (s : State) (e : Event) :
    (s.logged e).brokenInvariant = s.brokenInvariant := State.brokenInvariant_congr rfl rfl rfl rfl rfl
@[simp] theorem State.queue_logged (s : State) (e : Event) : (s.logged e).queue = s.queue := State.queue_eq_of rfl rfl rfl rfl
@[simp] theorem State.brokenInvariant_drawn (s : State) :
    (s.drawn).brokenInvariant = s.brokenInvariant := State.brokenInvariant_congr rfl rfl rfl rfl rfl
@[simp] theorem State.queue_drawn (s : State) : (s.drawn).queue = s.queue := State.queue_eq_of rfl rfl rfl rfl
@[simp] theorem State.brokenInvariant_registered (s : State) :
    (s.registered).brokenInvariant = s.brokenInvariant := State.brokenInvariant_congr rfl rfl rfl rfl rfl
@[simp] theorem State.queue_registered (s : State) : (s.registered).queue = s.queue := State.queue_eq_of rfl rfl rfl rfl
@[simp] theorem State.brokenInvariant_readBegun (s : State) (cnt : Count24) (base : Word) :
    (s.readBegun cnt base).brokenInvariant = s.brokenInvariant := State.brokenInvariant_congr rfl rfl rfl rfl rfl
@[simp] theorem State.queue_readBegun (s : State) (cnt : Count24) (base : Word) : (s.readBegun cnt base).queue = s.queue := State.queue_eq_of rfl rfl rfl rfl
@[simp] theorem State.brokenInvariant_charWritten (s : State) (c : Byte) :
    (s.charWritten c).brokenInvariant = s.brokenInvariant := State.brokenInvariant_congr rfl rfl rfl rfl rfl
@[simp] theorem State.queue_charWritten (s : State) (c : Byte) : (s.charWritten c).queue = s.queue := State.queue_eq_of rfl rfl rfl rfl
@[simp] theorem State.brokenInvariant_readEnded (s : State) :
    (s.readEnded).brokenInvariant = s.brokenInvariant := State.brokenInvariant_congr rfl rfl rfl rfl rfl
@[simp] theorem State.queue_readEnded (s : State) : (s.readEnded).queue = s.queue := State.queue_eq_of rfl rfl rfl rfl
@[simp] theorem State.brokenInvariant_accepted (s : State) (a : Attempt) (rest : List Attempt) :
    (s.accepted a rest).brokenInvariant = s.brokenInvariant := State.brokenInvariant_congr rfl rfl rfl rfl rfl
@[simp] theorem State.queue_accepted (s : State) (a : Attempt) (rest : List Attempt) : (s.accepted a rest).queue = s.queue := State.queue_eq_of rfl rfl rfl rfl
@[simp] theorem State.brokenInvariant_issuedBy (s : State) (ag : Agent) :
    (s.issuedBy ag).brokenInvariant = s.brokenInvariant := State.brokenInvariant_congr rfl rfl rfl rfl rfl
@[simp] theorem State.queue_issuedBy (s : State) (ag : Agent) : (s.issuedBy ag).queue = s.queue := State.queue_eq_of rfl rfl rfl rfl
@[simp] theorem State.brokenInvariant_offered (s : State) (c : Command) :
    (s.offered c).brokenInvariant = s.brokenInvariant := State.brokenInvariant_congr rfl rfl rfl rfl rfl
@[simp] theorem State.queue_offered (s : State) (c : Command) : (s.offered c).queue = s.queue := State.queue_eq_of rfl rfl rfl rfl

/-! ### The FIFO's operations keep the invariants -/

theorem State.fifo_emptied {s : State} (hN : 0 < s.params.depth) : s.emptied.brokenInvariant = none :=
  State.brokenInvariant_eq_none_of (Nat.zero_le _) hN (by simp) (by simp)

theorem State.fifo_stored {s : State} (b : Byte) (h : s.brokenInvariant = none) (hr : s.count ≠ s.params.depth) :
    (s.stored b).brokenInvariant = none := by
  obtain ⟨h1, ⟨h2, h2'⟩, h3, -, -, h6⟩ := (State.brokenInvariant_eq_none s).1 h
  have hlt : s.count < s.params.depth := by omega
  refine State.brokenInvariant_eq_none_of (s := s.stored b) hlt h2 ?_ fun i hi => ?_
  · simp only [State.stored_tail, State.stored_head, State.stored_count, State.stored_params, nextIndex, h3,
      Nat.mod_add_mod, Nat.add_assoc]
  · simp only [State.stored_mem, Memory.read_write]
    split
    · rfl
    · next hne =>
      simp only [State.stored_count] at hi
      rcases Nat.lt_or_ge i s.count with hic | hic
      · exact h6 i hic
      · exact absurd (by rw [show i = s.count by omega, h3]; rfl) hne

theorem State.fifo_removed {s : State} (h : s.brokenInvariant = none) (h0 : 0 < s.count) :
    s.removed.brokenInvariant = none := by
  obtain ⟨h1, ⟨h2, h2'⟩, h3, -, -, h6⟩ := (State.brokenInvariant_eq_none s).1 h
  refine State.brokenInvariant_eq_none_of (s := s.removed) ?_ (Nat.mod_lt _ (by simpa using by omega)) ?_ fun i hi => ?_
  · simp only [State.removed_count, State.removed_params]; omega
  · simp only [State.removed_tail, State.removed_head, State.removed_count, State.removed_params, nextIndex, h3,
      Nat.mod_add_mod]
    rw [show s.head + 1 + (s.count - 1) = s.head + s.count by omega]
  · simp only [State.removed_count] at hi
    have := h6 (i + 1) (by omega)
    simp only [State.removed_mem, State.slot, State.removed_head, State.removed_params, nextIndex, Nat.mod_add_mod]
    simpa only [State.slot, show s.head + 1 + i = s.head + (i + 1) by omega] using this

end Sys2Proof.Machine
end

