-- ==== Sys2Proof/Laws/Step.lean ====
section
/-! SUPPORT. What a command, a READ step and a step of the machine can do, each said once. -/

namespace Sys2Proof.Machine

/-- The rule of a command, after the common checks. -/
def ruleOf : Instr → State → State
  | .finit => bodyFinit
  | .push b => bodyPush b
  | .pop => bodyPop
  | .empty => bodyEmpty
  | .xlat b => bodyXlat b
  | .dinit => bodyDinit
  | .irq => bodyIrq
  | .read cnt base => bodyRead cnt base

/-- Every command answers a next state: the common checks, then its rule. -/
theorem exec_eq (i : Instr) (s : State) : exec i s = .next (checked i (ruleOf i) s) := by cases i <;> rfl

/-- A Producer's command issued by the Producer runs its rule. -/
theorem exec_of_producer {i : Instr} (hi : i.agent = .producer) (s : State) :
    exec i (s.issuedBy .producer) = .next (ruleOf i (s.issuedBy .producer)) := by
  rw [exec_eq, checked_producer (ruleOf i) hi rfl]

/-- A Consumer's command issued by the Consumer outside a READ call runs its rule. -/
theorem exec_of_consumer {i : Instr} (hi : i.agent = .consumer) {s : State} (h : s.rdActive = false) :
    exec i (s.issuedBy .consumer) = .next (ruleOf i (s.issuedBy .consumer)) := by
  rw [exec_eq, checked_consumer (s := s.issuedBy .consumer) (ruleOf i) hi rfl h]

/-- All a command can do: refused for the wrong agent, refused while the Consumer is busy, or its rule. -/
theorem exec_cases {i : Instr} {s t : State} (h : exec i s = .next t) :
    (s.issuer ≠ i.agent ∧ t = s.enterRefusal .wrongAgent s.issuer (encode i).words) ∨
    (s.issuer = i.agent ∧ s.issuer = .consumer ∧ s.rdActive = true ∧
      t = s.enterRefusal .consumerBusy s.issuer (encode i).words) ∨
    (s.issuer = i.agent ∧ (s.issuer = .consumer → s.rdActive = false) ∧ t = ruleOf i s) := by
  rw [exec_eq] at h
  obtain rfl := Host.Outcome.next.inj h
  exact checked_cases i (ruleOf i) s

/-- All POP's rule can do. -/
theorem bodyPop_cases (s : State) :
    (s.count = 0 ∧ bodyPop s = s.enterFault (.popEmpty s.head) s.issuer (encode .pop).words) ∨
    (0 < s.count ∧ s.mem.read s.head = none ∧ bodyPop s = s.enterFault (.invariant 6) s.issuer (encode .pop).words) ∨
    (0 < s.count ∧ ∃ v, s.mem.read s.head = some v ∧ bodyPop s = s.removed.respond s.issuer (respPop v)) := by
  by_cases h : s.count = 0
  · exact .inl ⟨h, by simp [bodyPop, h]⟩
  · right
    cases hv : s.mem.read s.head with
    | none => exact .inl ⟨by omega, rfl, by simp [bodyPop, h, hv]⟩
    | some v => exact .inr ⟨by omega, v, rfl, by simp [bodyPop, h, hv]⟩

/-- All DINIT's rule can do. -/
theorem bodyDinit_cases (s : State) :
    (s.irqReg = true ∧ bodyDinit s = s.enterRefusal .doubleInit s.issuer (encode .dinit).words) ∨
    (s.irqReg = false ∧ bodyDinit s =
      (((s.emptied.withMods Modifiers.clear).logged (.register s.params.irqLine)).registered).respond s.issuer respDinit) := by
  cases h : s.irqReg
  · exact .inr ⟨rfl, by simp [bodyDinit, h]⟩
  · exact .inl ⟨rfl, by simp [bodyDinit, h]⟩

/-- All IRQ's rule can do. -/
theorem bodyIrq_cases (s : State) :
    (s.irqReg = false ∧ bodyIrq s = s.noStep) ∨
    (s.irqReg = true ∧ bodyIrq s =
      (((s.drawn.logged (.portRead s.params.dataPort s.nextPortByte)).pushed s.nextPortByte).logged .ack).respond
        s.issuer (respIrq (!s.isFull) s.nextPortByte)) := by
  cases h : s.irqReg
  · exact .inl ⟨rfl, by simp [bodyIrq, h]⟩
  · exact .inr ⟨rfl, by simp [bodyIrq, h]⟩

/-- All a READ step can do. -/
theorem readStep_cases (s : State) :
    ((s.rdActive = false ∨
        (s.rdWritten.toNat < s.rdReq.toNat ∧ 0 < s.count ∧ ∃ v c, s.mem.read s.head = some v ∧
          (translate v s.mods).1 = some c ∧ admits s.params s.outAddr = false) ∨
        (s.rdReq.toNat < s.rdWritten.toNat ∧ 0 < s.count)) ∧ readStepState s = s.noStep) ∨
    (s.rdActive = true ∧ s.rdWritten.toNat < s.rdReq.toNat ∧ 0 < s.count ∧ s.mem.read s.head = none ∧
      readStepState s = s.enterFault (.invariant 6) .consumer []) ∨
    (s.rdActive = true ∧ s.rdWritten.toNat < s.rdReq.toNat ∧ 0 < s.count ∧ ∃ v, s.mem.read s.head = some v ∧
      (translate v s.mods).1 = none ∧
      readStepState s = (s.removed.withMods (translate v s.mods).2).ranSilently) ∨
    (s.rdActive = true ∧ s.rdWritten.toNat < s.rdReq.toNat ∧ 0 < s.count ∧ ∃ v c, s.mem.read s.head = some v ∧
      (translate v s.mods).1 = some c ∧ admits s.params s.outAddr = true ∧
      readStepState s = ((s.removed.withMods (translate v s.mods).2).charWritten c).ranSilently) ∨
    (s.rdActive = true ∧ (s.rdWritten = s.rdReq ∨ s.count = 0) ∧ readStepState s = readCompletion s) := by
  unfold readStepState
  split
  · next ha => exact .inl ⟨.inl (by simpa using ha), rfl⟩
  · next ha =>
    have ha : s.rdActive = true := by simpa using ha
    split
    · next hi =>
      have hi : s.rdWritten.toNat < s.rdReq.toNat ∧ 0 < s.count := by simpa [State.iterates] using hi
      unfold readIteration
      split
      · next hv => exact .inr (.inl ⟨ha, hi.1, hi.2, hv, rfl⟩)
      · next v hv =>
        split
        · next hr => exact .inr (.inr (.inl ⟨ha, hi.1, hi.2, v, hv, hr, rfl⟩))
        · next c hr =>
          split
          · next hadm => exact .inr (.inr (.inr (.inl ⟨ha, hi.1, hi.2, v, c, hv, hr, hadm, rfl⟩)))
          · next hadm => exact .inl ⟨.inr (.inl ⟨hi.1, hi.2, v, c, hv, hr, by simpa using hadm⟩), rfl⟩
    · next hi =>
      split
      · next hc =>
        exact .inr (.inr (.inr (.inr ⟨ha, by simpa [State.completes] using hc, rfl⟩)))
      · next hc =>
        have hi : s.rdWritten.toNat < s.rdReq.toNat → s.count = 0 := by simpa [State.iterates] using hi
        have hc : s.rdWritten ≠ s.rdReq ∧ s.count ≠ 0 := by simpa [State.completes] using hc
        have hne : s.rdWritten.toNat ≠ s.rdReq.toNat := fun h => hc.1 (BitVec.eq_of_toNat_eq h)
        exact .inl ⟨.inr (.inr ⟨by omega, by omega⟩), rfl⟩

/-- All a step that answers a next state can do. -/
theorem step_cases {s t : State} (h : step s = .next t) :
    s.fault = none ∧ s.refused = none ∧
    ((s.inbox = [] ∧ t = s) ∨
     ∃ a rest, s.inbox = a :: rest ∧
      ((∃ n, s.brokenInvariant = some n ∧ t = (s.accepted a rest).enterFault (.invariant n) a.agent a.words) ∨
       (s.brokenInvariant = none ∧ ∃ ag c b e, a = .issue ag c b ∧ decode s.params.addrW c = .error e ∧
         t = (s.accepted a rest).enterFault (.illegalCmd c.words) ag c.words) ∨
       (s.brokenInvariant = none ∧ ∃ ag c b i, a = .issue ag c b ∧ decode s.params.addrW c = .ok i ∧
         exec i (s.accepted a rest) = .next t) ∨
       (s.brokenInvariant = none ∧ a = .readStep ∧ t = readStepState (s.accepted a rest)))) := by
  unfold step select at h
  cases hf : s.fault with
  | some m => simp [hf] at h
  | none =>
    cases hr : s.refused with
    | some m => simp [hf, hr] at h
    | none =>
      refine ⟨rfl, rfl, ?_⟩
      cases hi : s.inbox with
      | nil =>
        simp only [hf, hr, hi, Host.Outcome.next.injEq] at h
        exact .inl ⟨rfl, h.symm⟩
      | cons a rest =>
        refine .inr ⟨a, rest, rfl, ?_⟩
        simp only [hf, hr, hi, selectAttempt, State.brokenInvariant_accepted] at h
        cases hb : s.brokenInvariant with
        | some n =>
          simp only [hb, Host.Outcome.next.injEq] at h
          exact .inl ⟨n, rfl, h.symm⟩
        | none =>
          simp only [hb, State.accepted_params] at h
          cases a with
          | readStep =>
            simp only [execReadStep, Host.Outcome.next.injEq] at h
            exact .inr (.inr (.inr ⟨rfl, rfl, h.symm⟩))
          | issue ag c b =>
            cases hd : decode s.params.addrW c with
            | error e =>
              simp only [hd, Host.Outcome.next.injEq] at h
              exact .inr (.inl ⟨rfl, ag, c, b, e, rfl, hd, h.symm⟩)
            | ok i =>
              simp only [hd] at h
              exact .inr (.inr (.inl ⟨rfl, ag, c, b, i, rfl, hd, h⟩))

/-- The host's run, one step unfolded. -/
theorem core_run_succ (M : Host.Core) (k : Nat) (s t : M.State) (h : M.step s = .next t) :
    M.run (k + 1) s = M.run k t := by simp [Host.Core.run, h]

/-- The host's run stops at a fault. -/
theorem core_run_fault (M : Host.Core) (k : Nat) (s : M.State) (r : M.Fault) (h : M.step s = .fault r) :
    M.run (k + 1) s = .fault r := by simp [Host.Core.run, h]

/-- The host's run stops at a refusal. -/
theorem core_run_refused (M : Host.Core) (k : Nat) (s : M.State) (r : M.Refusal) (h : M.step s = .refused r) :
    M.run (k + 1) s = .refused r := by simp [Host.Core.run, h]

/-- A run is the host's run of the same machine. -/
theorem run_eq_core_run (k : Nat) (s : State) : run k s = Host.Core.run Sys2Proof.core k s := by
  induction k generalizing s with
  | zero => rfl
  | succ k ih =>
    rw [run]
    cases h : step s with
    | next t => exact (ih t).trans (core_run_succ Sys2Proof.core k s t h).symm
    | fault r => exact (core_run_fault Sys2Proof.core k s r h).symm
    | refused r => exact (core_run_refused Sys2Proof.core k s r h).symm

/-- A run of k + 1 steps that gives a state is a step and a run of k. -/
theorem run_succ {k : Nat} {s t : State} (h : run (k + 1) s = .next t) : ∃ u, step s = .next u ∧ run k u = .next t := by
  unfold run at h
  cases hs : step s with
  | next u => exact ⟨u, rfl, by simpa [hs] using h⟩
  | fault r => simp [hs] at h
  | refused r => simp [hs] at h

/-- What holds at the start and is kept by every step holds after a run. -/
theorem run_induction {P : State → Prop} (hstep : ∀ s t, P s → step s = .next t → P t) :
    ∀ {k : Nat} {s t : State}, P s → run k s = .next t → P t := by
  intro k
  induction k with
  | zero => intro s t hp h; exact Host.Outcome.next.inj h ▸ hp
  | succ k ih =>
    intro s t hp h
    obtain ⟨u, hu, hr⟩ := run_succ h
    exact ih (hstep s u hp hu) hr

end Sys2Proof.Machine
end

