-- ==== Sys2Proof/Machine/BlockStep.lean ====
section
/-! DEFINITION. The step relation of the block alone, with everything R21 says is not state as its arguments. -/

namespace Sys2Proof.Machine

/-- The same attempt with the port's answer fixed. -/
def Attempt.answeredWith (b : Byte) : Attempt → Attempt
  | .issue ag c _ => .issue ag c (some b)
  | .readStep => .readStep

/-- The block in the machine, with one attempt to come, which the port answers with `b`. -/
def Block.inMachine (p : Params) (a : Attempt) (b : Byte) (x : Block) : State :=
  { State.reset with toBlock := x, params := p, inbox := [a.answeredWith b] }

/-- What a step of the block gives: the block after it, the response words returned, and what the attempt came to. -/
structure BlockAnswer where
  block     : Block
  responses : List Response
  outcome   : Option StepOutcome
  deriving DecidableEq, Repr

/-- One step of the block (R21): its arguments are the parameters of R9, the attempt the scheduler chose, the Port oracle's
answer, and a block, which holds none of them. That `step` is this step, whatever else stands beside the block, is `step_block`
(Laws/BlockStep.lean). -/
def Block.step (p : Params) (a : Attempt) (b : Byte) (x : Block) : Host.Outcome BlockAnswer Fault Refusal :=
  match Machine.step (x.inMachine p a b) with
  | .next t => .next ⟨t.toBlock, t.responses, t.last⟩
  | .fault r => .fault r
  | .refused r => .refused r

end Sys2Proof.Machine
end

