-- ==== Sys2Proof/Laws/BlockStep.lean ====
section
/-! SUPPORT. The machine's step is the step of the block it holds: beside the block, a step reads the parameters of R9, the
scheduler's choice and the port's answer, and nothing else (10_state.md R20, R21). -/

namespace Sys2Proof.Machine

/-- The two states hold the same block, of the same instance, with the same agent stepping. -/
structure State.Agree (s u : State) : Prop where
  block  : s.toBlock = u.toBlock
  params : s.params = u.params
  issuer : s.issuer = u.issuer

/-- `t` comes from `s` as `v` comes from `u`: the same block, the same response, the same outcome. -/
structure SameAnswer (s t u v : State) : Prop where
  block     : t.toBlock = v.toBlock
  responses : ∃ new, t.responses = s.responses ++ new ∧ v.responses = u.responses ++ new
  last      : t.last = v.last

variable {s u : State}

/-- Ending an attempt without a response. -/
theorem SameAnswer.silent {t v : State} (hb : t.toBlock = v.toBlock) (hs : t.responses = s.responses)
    (hu : v.responses = u.responses) (hl : t.last = v.last) : SameAnswer s t u v :=
  ⟨hb, ⟨[], by simp [hs], by simp [hu]⟩, hl⟩

/-- Ending an attempt with a response. -/
theorem SameAnswer.response {t v : State} (ag : Agent) (w : Word) (hb : t.toBlock = v.toBlock)
    (hs : t.responses = s.responses) (hu : v.responses = u.responses) : SameAnswer s (t.respond ag w) u (v.respond ag w) :=
  ⟨hb, ⟨[⟨ag, w⟩], by simp [hs], by simp [hu]⟩, rfl⟩

/-- A push depends on the block and N alone. -/
theorem State.Agree.pushed (h : s.toBlock = u.toBlock) (hp : s.params = u.params) (b : Byte) :
    (s.pushed b).toBlock = (u.pushed b).toBlock := by
  rcases s with ⟨x, ⟨p, ib, ag, pa, di⟩, cm, rs, l⟩
  rcases u with ⟨y, ⟨p', ib', ag', pa', di'⟩, cm', rs', l'⟩
  dsimp only at h hp
  subst h hp
  rcases State.pushed_cases ⟨x, ⟨p, ib, ag, pa, di⟩, cm, rs, l⟩ b with ⟨hc, h⟩ | ⟨hc, h⟩ <;>
    rcases State.pushed_cases ⟨x, ⟨p, ib', ag', pa', di'⟩, cm', rs', l'⟩ b with ⟨hc', h'⟩ | ⟨hc', h'⟩ <;> rw [h, h']
  · exact absurd hc hc'
  · exact absurd hc' hc
  · rfl

/-- The queue's slots and the invariants depend on the block and N alone. -/
theorem State.Agree.brokenInvariant (h : s.Agree u) : s.brokenInvariant = u.brokenInvariant :=
  State.brokenInvariant_congr (congrArg Block.mem h.block) (congrArg Block.head h.block) (congrArg Block.tail h.block)
    (congrArg Block.count h.block) h.params

/-- A command's rule. -/
theorem ruleOf_sameAnswer (i : Instr) (h : s.Agree u) (hb : s.nextPortByte = u.nextPortByte) :
    SameAnswer s (ruleOf i s) u (ruleOf i u) := by
  obtain ⟨hx, hp, hi⟩ := h
  have hcount : s.count = u.count := congrArg Block.count hx
  have hhead : s.head = u.head := congrArg Block.head hx
  have hmem : s.mem = u.mem := congrArg Block.mem hx
  have hmods : s.mods = u.mods := congrArg Block.mods hx
  have hirq : s.irqReg = u.irqReg := congrArg Block.irqReg hx
  have hfull : s.isFull = u.isFull := by simp only [State.isFull, hcount, hp]
  cases i with
  | finit =>
    simp only [ruleOf, bodyFinit, hi]
    exact .response _ _ (congrArg (fun x : Block => { x with head := 0, tail := 0, count := 0 }) hx) rfl rfl
  | push b =>
    simp only [ruleOf, bodyPush, hi, hfull]
    exact .response _ _ (State.Agree.pushed hx hp b) (s.pushed_responses b) (u.pushed_responses b)
  | pop =>
    simp only [ruleOf, bodyPop, hi, hcount, hhead, hmem]
    by_cases h0 : u.count = 0
    · simp only [h0, if_true]
      exact .silent (congrArg (fun x : Block => { x with fault := some ⟨.popEmpty u.head, u.issuer, (encode .pop).words⟩ }) hx)
        rfl rfl rfl
    · simp only [h0, if_false]
      cases hv : u.mem.read u.head with
      | none => exact .silent (congrArg (fun x : Block => { x with fault := some ⟨.invariant 6, u.issuer, (encode .pop).words⟩ }) hx)
                  rfl rfl rfl
      | some v =>
        refine .response _ _ ?_ rfl rfl
        rw [State.removed, hp]
        exact congrArg (fun x : Block => { x with head := nextIndex u.params.depth x.head, count := x.count - 1 }) hx
  | empty =>
    simp only [ruleOf, bodyEmpty, State.isEmpty, hi, hcount]
    exact .response _ _ hx rfl rfl
  | xlat b =>
    simp only [ruleOf, bodyXlat, hi, hmods]
    exact .response _ _ (congrArg (fun x : Block => { x with mods := (translate b u.mods).2 }) hx) rfl rfl
  | dinit =>
    simp only [ruleOf, bodyDinit, hirq, hi, hp]
    cases u.irqReg with
    | true => exact .silent (congrArg (fun x : Block => { x with refused := some ⟨.doubleInit, u.issuer, (encode .dinit).words⟩ }) hx)
                rfl rfl rfl
    | false =>
      exact .response _ _ (congrArg (fun x : Block => { x with
        head := 0, tail := 0, count := 0, mods := Modifiers.clear, irqReg := true,
        history := x.history ++ [Event.register u.params.irqLine] }) hx) rfl rfl
  | irq =>
    simp only [ruleOf, bodyIrq, hirq, hi, hp, hb, hfull]
    cases u.irqReg with
    | false => exact .silent hx rfl rfl rfl
    | true =>
      have hlog : (s.drawn.logged (.portRead u.params.dataPort u.nextPortByte)).toBlock =
          (u.drawn.logged (.portRead u.params.dataPort u.nextPortByte)).toBlock :=
        congrArg (fun x : Block => { x with history := x.history ++ [Event.portRead u.params.dataPort u.nextPortByte] }) hx
      exact .response _ _
        (congrArg (fun x : Block => { x with history := x.history ++ [Event.ack] }) (State.Agree.pushed hlog hp u.nextPortByte))
        (by simp) (by simp)
  | read cnt base =>
    exact .silent (congrArg (fun x : Block => { x with rdActive := true, rdBase := base, rdReq := cnt, rdWritten := 0 }) hx)
      rfl rfl rfl

/-- An issued command: the common checks and its rule. -/
theorem checked_sameAnswer (i : Instr) (h : s.Agree u) (hb : s.nextPortByte = u.nextPortByte) :
    SameAnswer s (checked i (ruleOf i) s) u (checked i (ruleOf i) u) := by
  have hact : s.rdActive = u.rdActive := congrArg Block.rdActive h.block
  simp only [checked, h.issuer, hact]
  split
  · exact .silent (congrArg (fun x : Block => { x with refused := some ⟨.wrongAgent, u.issuer, (encode i).words⟩ }) h.block)
      rfl rfl rfl
  · split
    · exact .silent (congrArg (fun x : Block => { x with refused := some ⟨.consumerBusy, u.issuer, (encode i).words⟩ }) h.block)
        rfl rfl rfl
    · exact ruleOf_sameAnswer i h hb

/-- A READ iteration. -/
theorem readIteration_sameAnswer (h : s.Agree u) : SameAnswer s (readIteration s) u (readIteration u) := by
  obtain ⟨hx, hp, -⟩ := h
  have hhead : s.head = u.head := congrArg Block.head hx
  have hmem : s.mem = u.mem := congrArg Block.mem hx
  have hmods : s.mods = u.mods := congrArg Block.mods hx
  have hout : s.outAddr = u.outAddr := congrArg (fun x : Block => x.rdBase.toNat + x.rdWritten.toNat) hx
  have hpop : s.removed.toBlock = u.removed.toBlock := by
    rw [State.removed, hp]
    exact congrArg (fun x : Block => { x with head := nextIndex u.params.depth x.head, count := x.count - 1 }) hx
  unfold readIteration
  rw [hmem, hhead, hmods]
  cases u.mem.read u.head with
  | none => exact .silent (congrArg (fun x : Block => { x with fault := some ⟨.invariant 6, .consumer, []⟩ }) hx) rfl rfl rfl
  | some v =>
    cases hv : (Machine.translate v u.mods).1 with
    | none =>
      simp only [hv]
      exact .silent (congrArg (fun x : Block => { x with mods := (Machine.translate v u.mods).2 }) hpop) rfl rfl rfl
    | some c =>
      cases hA : admits u.params u.outAddr with
      | false =>
        simp only [hv, hp, hout, hA, Bool.false_eq_true, if_false]
        exact .silent hx rfl rfl rfl
      | true =>
        simp only [hv, hp, hout, hA, if_true]
        exact .silent (congrArg (fun x : Block => { x with
          mods := (Machine.translate v u.mods).2,
          history := x.history ++ [Event.memWrite (x.rdBase.toNat + x.rdWritten.toNat) c],
          rdWritten := x.rdWritten + 1 }) hpop) rfl rfl rfl

/-- A READ step. -/
theorem readStepState_sameAnswer (h : s.Agree u) : SameAnswer s (readStepState s) u (readStepState u) := by
  have hx := h.block
  have hact : s.rdActive = u.rdActive := congrArg Block.rdActive hx
  have hiter : s.iterates = u.iterates :=
    congrArg (fun x : Block => decide (x.rdWritten.toNat < x.rdReq.toNat) && decide (0 < x.count)) hx
  have hcomp : s.completes = u.completes := congrArg (fun x : Block => x.rdWritten == x.rdReq || x.count == 0) hx
  have hw : s.rdWritten = u.rdWritten := congrArg Block.rdWritten hx
  unfold readStepState
  cases hA : u.rdActive with
  | false =>
    simp only [hact, hA, Bool.not_false, if_true]
    exact .silent hx rfl rfl rfl
  | true =>
    simp only [hact, hA, Bool.not_true, Bool.false_eq_true, if_false]
    cases hI : u.iterates with
    | true =>
      simp only [hiter, hI, if_true]
      exact readIteration_sameAnswer h
    | false =>
      simp only [hiter, hI, Bool.false_eq_true, if_false]
      cases hC : u.completes with
      | true =>
        simp only [hcomp, hC, if_true, readCompletion, hw]
        exact .response _ _ (congrArg (fun x : Block => { x with rdActive := false }) hx) rfl rfl
      | false =>
        simp only [hcomp, hC, Bool.false_eq_true, if_false]
        exact .silent hx rfl rfl rfl

/-! ### One step -/

/-- What the machine answers, as an answer of the block's step that began with `old` responses given. -/
def blockAnswer (old : List Response) : Result → Host.Outcome BlockAnswer Fault Refusal
  | .next t => .next ⟨t.toBlock, t.responses.drop old.length, t.last⟩
  | .fault m => .fault m
  | .refused m => .refused m

/-- States that give the same answer are answered alike. -/
theorem SameAnswer.blockAnswer_eq {t v : State} (h : SameAnswer s t u v) :
    blockAnswer s.responses (.next t) = blockAnswer u.responses (.next v) := by
  obtain ⟨hb, ⟨new, ht, hv⟩, hl⟩ := h
  simp [blockAnswer, hb, ht, hv, hl]

/-- The checks and the rule of an attempt. -/
theorem selectAttempt_sameAnswer {a : Attempt} (b : Byte) (h : s.Agree u)
    (hb : a ≠ .readStep → s.nextPortByte = u.nextPortByte) :
    blockAnswer s.responses (match selectAttempt a s with
      | .done r => r
      | .run i t => exec i t
      | .readStep t => execReadStep t) =
    blockAnswer u.responses (match selectAttempt (a.answeredWith b) u with
      | .done r => r
      | .run i t => exec i t
      | .readStep t => execReadStep t) := by
  unfold selectAttempt
  rw [h.brokenInvariant]
  cases u.brokenInvariant with
  | some n =>
    cases a with
    | issue ag c ans =>
      exact SameAnswer.blockAnswer_eq (.silent (congrArg (fun x : Block => { x with fault := some ⟨.invariant n, ag, c.words⟩ }) h.block)
        rfl rfl rfl)
    | readStep =>
      exact SameAnswer.blockAnswer_eq (.silent (congrArg (fun x : Block => { x with fault := some ⟨.invariant n, .consumer, []⟩ }) h.block)
        rfl rfl rfl)
  | none =>
    cases a with
    | readStep => exact (readStepState_sameAnswer h).blockAnswer_eq
    | issue ag c ans =>
      simp only [Attempt.answeredWith, h.params]
      cases decode u.params.addrW c with
      | error e =>
      exact SameAnswer.blockAnswer_eq (.silent (congrArg (fun x : Block => { x with fault := some ⟨.illegalCmd c.words, ag, c.words⟩ }) h.block)
        rfl rfl rfl)
      | ok i =>
        simp only [exec_eq]
        exact (checked_sameAnswer i h (hb (by simp))).blockAnswer_eq

/-- A step of the machine with an attempt to make is the block's step under that attempt, the machine's parameters and the port's
answer: the same stop, or the same block, response and outcome. -/
theorem step_block {s : State} {a : Attempt} {rest : List Attempt} (hi : s.inbox = a :: rest) :
    blockAnswer s.responses (step s) =
      Block.step s.params a (a.answer.getD (Config.portDraw s.drawIndex)) s.toBlock := by
  generalize hb : a.answer.getD (Config.portDraw s.drawIndex) = b
  have hstep : Block.step s.params a b s.toBlock = blockAnswer [] (Machine.step (s.toBlock.inMachine s.params a b)) := by
    unfold Block.step blockAnswer
    cases Machine.step (s.toBlock.inMachine s.params a b) <;> rfl
  have hagree : (s.accepted a rest).Agree ((s.toBlock.inMachine s.params a b).accepted (a.answeredWith b) []) :=
    ⟨rfl, rfl, by cases a <;> rfl⟩
  have hport : a ≠ .readStep → (s.accepted a rest).nextPortByte =
      ((s.toBlock.inMachine s.params a b).accepted (a.answeredWith b) []).nextPortByte := by
    cases a with
    | issue ag c ans => exact fun _ => hb
    | readStep => exact fun h => absurd rfl h
  rw [hstep]
  unfold step select
  have hfault : (s.toBlock.inMachine s.params a b).fault = s.fault := rfl
  have href : (s.toBlock.inMachine s.params a b).refused = s.refused := rfl
  have hin : (s.toBlock.inMachine s.params a b).inbox = [a.answeredWith b] := rfl
  simp only [hfault, href, hin, hi]
  cases s.fault with
  | some m => rfl
  | none =>
    cases s.refused with
    | some m => rfl
    | none => exact selectAttempt_sameAnswer b hagree hport

end Sys2Proof.Machine
end

