-- ==== Sys2Proof/Laws/Effects.lean ====
section
/-! SUPPORT. What a command's rule, a READ step and a step of the machine can do to the marks and to the FIFO, said once; proofs about
runs split on these cases and on nothing else. -/

namespace Sys2Proof.Machine

/-! ### The outcome of a rule -/

/-- How a command's rule can end: it ran and touched no mark, it faulted and changed nothing else, it was refused DOUBLE_INIT and
changed nothing else, or it was not enabled. -/
theorem ruleOf_outcome (i : Instr) (s : State) :
    (ruleOf i s).last = some .ran ∧ (ruleOf i s).fault = s.fault ∧ (ruleOf i s).refused = s.refused ∧ (ruleOf i s).inbox = s.inbox ∧ (ruleOf i s).issuer = s.issuer ∨
    (∃ m, m.agent = s.issuer ∧ m.words = (encode i).words ∧ ruleOf i s = { s with fault := some m, last := some .faulted }) ∨
    (i = .dinit ∧ s.irqReg = true ∧ ruleOf i s = {s with refused := some ⟨.doubleInit, s.issuer, (encode i).words⟩, last := some .refused}) ∨
    ruleOf i s = s.noStep := by
  cases i with
  | finit => left; simp [ruleOf, bodyFinit]
  | push b =>
    left
    rcases s.pushed_cases b with ⟨-, h⟩ | ⟨-, h⟩ <;> simp [ruleOf, bodyPush, h]
  | pop =>
    rcases bodyPop_cases s with ⟨-, h⟩ | ⟨-, -, h⟩ | ⟨-, v, -, h⟩
    · right; left; exact ⟨_, rfl, rfl, h⟩
    · right; left; exact ⟨_, rfl, rfl, h⟩
    · left; simp [ruleOf, h]
  | empty => left; simp [ruleOf, bodyEmpty]
  | xlat b => left; simp [ruleOf, bodyXlat]
  | dinit =>
    rcases bodyDinit_cases s with ⟨h1, h⟩ | ⟨h1, h⟩
    · right; right; left; exact ⟨rfl, h1, h⟩
    · left; simp [ruleOf, h]
  | irq =>
    rcases bodyIrq_cases s with ⟨h1, h⟩ | ⟨h1, h⟩
    · right; right; right; exact h
    · left
      rcases (s.drawn.logged (.portRead s.params.dataPort s.nextPortByte)).pushed_cases s.nextPortByte with ⟨-, h'⟩ | ⟨-, h'⟩ <;> simp [ruleOf, h, h']
  | read cnt base => left; simp [ruleOf, bodyRead]

/-! ### The effect on the FIFO -/

/-- What one agent's step can do to the storage, HEAD, TAIL and COUNT: leave them, push (the Producer), pop or empty (the Consumer;
emptying only where `mayClear`). -/
inductive FifoEffect (ag : Agent) (mayClear : Prop) (s t : State) : Prop
  | keep (hm : t.mem = s.mem) (hh : t.head = s.head) (ht : t.tail = s.tail) (hc : t.count = s.count)
      (hp : t.params = s.params)
  | push (b : Byte) (hag : ag = .producer) (room : s.count ≠ s.params.depth) (hm : t.mem = s.mem.write s.tail b)
      (hh : t.head = s.head) (ht : t.tail = nextIndex s.params.depth s.tail) (hc : t.count = s.count + 1)
      (hp : t.params = s.params)
  | pop (hag : ag = .consumer) (some_left : 0 < s.count) (hm : t.mem = s.mem)
      (hh : t.head = nextIndex s.params.depth s.head) (ht : t.tail = s.tail) (hc : t.count = s.count - 1)
      (hp : t.params = s.params)
  | clear (hag : ag = .consumer) (hcl : mayClear) (hm : t.mem = s.mem) (hh : t.head = 0) (ht : t.tail = 0)
      (hc : t.count = 0) (hp : t.params = s.params)

/-- The rule of a command: only FINIT and DINIT may empty the FIFO. -/
theorem ruleOf_fifoEffect (i : Instr) (s : State) :
    FifoEffect i.agent (i = .finit ∨ i = .dinit) s (ruleOf i s) := by
  cases i with
  | finit => exact .clear rfl (.inl rfl) rfl rfl rfl rfl rfl
  | push b =>
    rcases s.pushed_cases b with ⟨-, h⟩ | ⟨hne, h⟩ <;> simp only [ruleOf, bodyPush, h]
    · exact .keep rfl rfl rfl rfl rfl
    · exact .push b rfl hne rfl rfl rfl rfl rfl
  | pop =>
    rcases bodyPop_cases s with ⟨-, h⟩ | ⟨-, -, h⟩ | ⟨h0, v, -, h⟩ <;> simp only [ruleOf, h]
    · exact .keep rfl rfl rfl rfl rfl
    · exact .keep rfl rfl rfl rfl rfl
    · exact .pop rfl h0 rfl rfl rfl rfl rfl
  | empty => exact .keep rfl rfl rfl rfl rfl
  | xlat b => exact .keep rfl rfl rfl rfl rfl
  | dinit =>
    rcases bodyDinit_cases s with ⟨-, h⟩ | ⟨-, h⟩ <;> simp only [ruleOf, h]
    · exact .keep rfl rfl rfl rfl rfl
    · exact .clear rfl (.inr trivial) rfl rfl rfl rfl rfl
  | irq =>
    rcases bodyIrq_cases s with ⟨-, h⟩ | ⟨-, h⟩ <;> simp only [ruleOf, h]
    · exact .keep rfl rfl rfl rfl rfl
    · rcases (s.drawn.logged (.portRead s.params.dataPort s.nextPortByte)).pushed_cases s.nextPortByte with
        ⟨-, h'⟩ | ⟨hne, h'⟩ <;> rw [h']
      · exact .keep rfl rfl rfl rfl rfl
      · exact .push _ rfl hne rfl rfl rfl rfl rfl
  | read cnt base => exact .keep rfl rfl rfl rfl rfl

/-- A READ step pops one entry or leaves the FIFO alone. -/
theorem readStep_fifoEffect (s : State) : FifoEffect .consumer False s (readStepState s) := by
  rcases readStep_cases s with ⟨-, h⟩ | ⟨-, -, -, -, h⟩ | ⟨-, -, h0, v, -, -, h⟩ | ⟨-, -, h0, v, c, -, -, -, h⟩ |
    ⟨-, -, h⟩ <;> rw [h]
  · exact .keep rfl rfl rfl rfl rfl
  · exact .keep rfl rfl rfl rfl rfl
  · exact .pop rfl h0 rfl rfl rfl rfl rfl
  · exact .pop rfl h0 rfl rfl rfl rfl rfl
  · exact .keep rfl rfl rfl rfl rfl

/-- The attempt is one of the two commands that empty the FIFO. -/
def Attempt.Clears (addrW : Nat) (a : Attempt) : Prop :=
  ∃ ag c b, a = .issue ag c b ∧ (decode addrW c = .ok .finit ∨ decode addrW c = .ok .dinit)

/-- Taking an attempt off the schedule changes nothing a FIFO effect speaks of. -/
theorem FifoEffect.of_accepted {ag : Agent} {a : Attempt} {p q : Prop} {s t : State} {rest : List Attempt} (hpq : p → q)
    (h : FifoEffect ag p (s.accepted a rest) t) : FifoEffect ag q s t := by
  cases h with
  | keep hm hh ht hc hp => exact .keep hm hh ht hc hp
  | push b hag hr hm hh ht hc hp => exact .push b hag hr hm hh ht hc hp
  | pop hag h0 hm hh ht hc hp => exact .pop hag h0 hm hh ht hc hp
  | clear hag hcl hm hh ht hc hp => exact .clear hag (hpq hcl) hm hh ht hc hp

/-- A step of the machine: idle, or one agent's effect on the FIFO. -/
theorem step_fifoEffect {s t : State} (h : step s = .next t) :
    (s.inbox = [] ∧ t = s) ∨
    ∃ a rest, s.inbox = a :: rest ∧ t.inbox = rest ∧ FifoEffect a.agent (a.Clears s.params.addrW) s t := by
  obtain ⟨-, -, ⟨hi, rfl⟩ | ⟨a, rest, hi, h⟩⟩ := step_cases h
  · exact .inl ⟨hi, rfl⟩
  refine .inr ⟨a, rest, hi, ?_⟩
  rcases h with ⟨n, -, rfl⟩ | ⟨-, ag, c, b, e, rfl, -, rfl⟩ | ⟨-, ag, c, b, i, rfl, hd, hx⟩ | ⟨-, rfl, rfl⟩
  · exact ⟨rfl, .keep rfl rfl rfl rfl rfl⟩
  · exact ⟨rfl, .keep rfl rfl rfl rfl rfl⟩
  · rcases exec_cases hx with ⟨-, rfl⟩ | ⟨-, -, -, rfl⟩ | ⟨hag, -, rfl⟩
    · exact ⟨rfl, .keep rfl rfl rfl rfl rfl⟩
    · exact ⟨rfl, .keep rfl rfl rfl rfl rfl⟩
    · have hag : ag = i.agent := hag
      subst hag
      refine ⟨?_, (ruleOf_fifoEffect i (s.accepted (.issue i.agent c b) rest)).of_accepted ?_⟩
      · rcases ruleOf_outcome i (s.accepted (.issue i.agent c b) rest) with ⟨-, -, -, h, -⟩ | ⟨m, -, -, h⟩ | ⟨-, -, h⟩ | h <;> rw [h] <;> rfl
      · rintro (rfl | rfl)
        · exact ⟨_, c, b, rfl, .inl hd⟩
        · exact ⟨_, c, b, rfl, .inr hd⟩
  · refine ⟨?_, (readStep_fifoEffect (s.accepted .readStep rest)).of_accepted False.elim⟩
    rcases readStep_cases (s.accepted .readStep rest) with ⟨-, h⟩ | ⟨-, -, -, -, h⟩ | ⟨-, -, -, v, -, -, h⟩ |
      ⟨-, -, -, v, c, -, -, -, h⟩ | ⟨-, -, h⟩ <;> rw [h] <;> rfl

/-- Every FIFO effect keeps the invariants of R25. -/
theorem FifoEffect.fifo {ag : Agent} {p : Prop} {s t : State} (h : FifoEffect ag p s t) (hb : s.brokenInvariant = none) :
    t.brokenInvariant = none := by
  cases h with
  | keep hm hh ht hc hp => rw [State.brokenInvariant_congr hm hh ht hc hp, hb]
  | push b hag hr hm hh ht hc hp =>
    exact (State.brokenInvariant_congr (s := s.stored b) hm hh ht hc hp).trans (State.fifo_stored b hb hr)
  | pop hag h0 hm hh ht hc hp =>
    exact (State.brokenInvariant_congr (s := s.removed) hm hh ht hc hp).trans (State.fifo_removed hb h0)
  | clear hag hcl hm hh ht hc hp =>
    have hN : 0 < s.params.depth := by have := ((State.brokenInvariant_eq_none s).1 hb).2.1.1; omega
    exact (State.brokenInvariant_congr (s := s.emptied) hm hh ht hc hp).trans (State.fifo_emptied hN)

/-! ### Lists of scan codes and of characters, in two parts -/

/-- The flags after a list in two parts. -/
theorem flagsAfter_append (a b : List Byte) (m : Modifiers) : flagsAfter (a ++ b) m = flagsAfter b (flagsAfter a m) := by
  induction a generalizing m with
  | nil => rfl
  | cons x a ih => exact ih _

/-- The characters of a list in two parts. -/
theorem charsOf_append (a b : List Byte) (m : Modifiers) :
    charsOf (a ++ b) m = charsOf a m ++ charsOf b (flagsAfter a m) := by
  induction a generalizing m with
  | nil => rfl
  | cons x a ih => simp [charsOf, flagsAfter, ih]

/-- Writing in two parts: the events. -/
theorem writeEvents_append (n : Nat) (a b : List Byte) :
    writeEvents n (a ++ b) = writeEvents n a ++ writeEvents (n + a.length) b := by
  induction a generalizing n with
  | nil => rfl
  | cons x a ih => simp [writeEvents, ih, Nat.add_assoc, Nat.add_comm 1]

/-- Writing in two parts: the memory. -/
theorem writeAll_append (m : Memory) (n : Nat) (a b : List Byte) :
    writeAll m n (a ++ b) = writeAll (writeAll m n a) (n + a.length) b := by
  induction a generalizing m n with
  | nil => rfl
  | cons x a ih => simp [writeAll, ih, Nat.add_assoc, Nat.add_comm 1]

end Sys2Proof.Machine
end

