-- ==== Sys2Proof/Laws/Inv.lean ====
section
/-! SUPPORT. What each shared operation does to the invariant of Safety.lean, one lemma an operation. -/

namespace Sys2Proof.Machine

variable {s : State}

/-- An admitted address exists in consumer memory (R52). -/
theorem admits_lt {p : Params} {a : Nat} (h : admits p a = true) : a < 2 ^ p.addrW := by
  simp only [admits, Bool.and_eq_true, decide_eq_true_eq] at h
  exact h.1

/-- The marks are outside the invariant, but for the rule that at most one is set. -/
theorem State.Inv.of_marks (h : s.Inv) (f : Option FaultMark) (r : Option RefusalMark) (l : Option StepOutcome)
    (hm : f = none ∨ r = none) : ({ s with fault := f, refused := r, last := l } : State).Inv :=
  { h with one_mark := hm }

/-- The model's own fields are outside the invariant. -/
theorem State.Inv.of_environment (h : s.Inv) (ib : List Attempt) (ag : Agent) (pb : Option Byte) (di : Nat)
    (rs : List Response) (l : Option StepOutcome) :
    ({ s with inbox := ib, issuer := ag, portAnswer := pb, drawIndex := di, responses := rs, last := l } : State).Inv :=
  { h with }

/-- Writing the modifier flags keeps the invariant. -/
theorem State.Inv.withMods (h : s.Inv) (m : Modifiers) : (s.withMods m).Inv := { h with }

/-- Emptying the FIFO keeps the invariant. -/
theorem State.Inv.emptied (h : s.Inv) : s.emptied.Inv := { h with fifo := State.fifo_emptied h.params_wf.1 }

/-- Storing a byte where there is room keeps the invariant. -/
theorem State.Inv.stored (h : s.Inv) (b : Byte) (room : s.count ≠ s.params.depth) : (s.stored b).Inv :=
  { h with
    fifo := State.fifo_stored b h.fifo room
    mem_wf := Memory.wf_write _ b h.mem_wf
    mem_below := Memory.below_write b h.mem_below ((State.brokenInvariant_eq_none s).1 h.fifo).2.1.2 }

/-- A push, stored or dropped, keeps the invariant. -/
theorem State.Inv.pushed (h : s.Inv) (b : Byte) : (s.pushed b).Inv := by
  rcases s.pushed_cases b with ⟨-, h'⟩ | ⟨room, h'⟩ <;> rw [h']
  · exact h
  · exact h.stored b room

/-- Removing an entry that is there keeps the invariant. -/
theorem State.Inv.removed (h : s.Inv) (h0 : 0 < s.count) : s.removed.Inv := { h with fifo := State.fifo_removed h.fifo h0 }

/-- Writing an admitted character of an unfinished READ keeps the invariant. -/
theorem State.Inv.charWritten (h : s.Inv) (c : Byte) (ha : admits s.params s.outAddr = true)
    (hw : s.rdWritten.toNat < s.rdReq.toNat) : (s.charWritten c).Inv :=
  { h with
    cmem_wf := Memory.wf_write _ c h.cmem_wf
    cmem_below := Memory.below_write c h.cmem_below (admits_lt ha)
    cmem_replay := by rw [State.charWritten_cmem, State.charWritten_history, replay_append, ← h.cmem_replay]; rfl
    writes_admitted := by
      rw [State.charWritten_history, List.all_append, State.charWritten_params, h.writes_admitted]
      simp [Event.admitted, ha]
    written_le := by
      rw [State.charWritten_rdWritten, State.charWritten_rdReq, BitVec.toNat_add]
      have hreq := s.rdReq.isLt
      have hone : (1 : Count24).toNat = 1 := rfl
      rw [hone, Nat.mod_eq_of_lt (by omega)]
      omega
    irq_reg := by
      rw [State.charWritten_history, List.any_append, State.charWritten_irqReg, h.irq_reg]
      simp [Event.isRegister]
    no_early_irq := by
      intro h'
      rw [State.charWritten_history, List.any_append, h.no_early_irq h']
      simp [Event.isPortRead]
    acked := by
      rw [State.charWritten_history]
      simp [List.countP_append, h.acked, Event.isAck, Event.isPortRead] }

/-- The two events of a serviced interrupt keep the invariant. -/
theorem State.Inv.portReadAcked (h : s.Inv) (hi : s.irqReg = true) (p : Nat) (b : Byte) :
    ({ s with history := s.history ++ [Event.portRead p b] ++ [Event.ack] } : State).Inv :=
  { h with
    cmem_replay := by
      show s.cmem = replay (s.history ++ [Event.portRead p b] ++ [Event.ack])
      rw [replay_append, replay_append]
      exact h.cmem_replay
    writes_admitted := by
      show (s.history ++ [Event.portRead p b] ++ [Event.ack]).all (Event.admitted s.params) = true
      rw [List.all_append, List.all_append, h.writes_admitted]
      rfl
    irq_reg := by
      show s.irqReg = (s.history ++ [Event.portRead p b] ++ [Event.ack]).any Event.isRegister
      rw [List.any_append, List.any_append, ← h.irq_reg]
      simp [Event.isRegister]
    no_early_irq := by
      intro h'
      rw [show s.irqReg = false from h'] at hi
      cases hi
    acked := by
      show (s.history ++ [Event.portRead p b] ++ [Event.ack]).countP _ =
        (s.history ++ [Event.portRead p b] ++ [Event.ack]).countP _
      rw [List.append_assoc, List.countP_append, List.countP_append (p := Event.isPortRead), h.acked]
      rfl }

/-- The registration event keeps the invariant. -/
theorem State.Inv.handlerRegistered (h : s.Inv) (line : Nat) : ((s.logged (.register line)).registered).Inv :=
  { h with
    cmem_replay := by simp [replay_append, ← h.cmem_replay, Event.apply]
    writes_admitted := by
      show (s.history ++ [Event.register line]).all (Event.admitted s.params) = true
      rw [List.all_append, h.writes_admitted]
      rfl
    irq_reg := by simp [Event.isRegister]
    no_early_irq := by simp
    acked := by simp [List.countP_append, h.acked, Event.isAck, Event.isPortRead] }

/-- Beginning a READ call with an address as base keeps the invariant (R160). -/
theorem State.Inv.readBegun (h : s.Inv) (cnt : Count24) {base : Word} (hb : base.toNat < 2 ^ s.params.addrW) :
    (s.readBegun cnt base).Inv := { h with written_le := Nat.zero_le _, base_lt := hb }

end Sys2Proof.Machine
end

