-- ==== Sys2Proof/Laws/PerInstr.lean ====
section
/-! SUPPORT. Statements about each command as syntax: its first word lies in its own row of R76's table. -/

namespace Sys2Proof.Laws.EncodedRow

/-- The first word of the command's encoding matches the command's own row of R76, which is a row of the table. -/
def Statement (i : Instr) : Prop := i.row.covers (encode i).w0 = true ∧ i.row ∈ opTable

/-- A Format B word under the mask of R76: the operand byte is masked out, the rest is kept. -/
theorem formatB_masked (op : BitVec 8) (b : Byte) :
    (op ++ (0 : BitVec 16) ++ b) &&& 0xFFFFFF00 = op ++ (0 : BitVec 16) ++ (0 : Byte) := by
  rw [show (0xFFFFFF00 : Word) = (0xFF : BitVec 8) ++ (0xFFFF : BitVec 16) ++ (0 : Byte) by rfl, BitVec.and_append,
    BitVec.and_append, show (0xFF : BitVec 8) = BitVec.allOnes 8 by rfl, BitVec.and_allOnes]
  simp

/-- A Format R word under the mask of R76: the count is masked out, OP is kept. -/
theorem formatR_masked (op : BitVec 8) (cnt : Count24) : (op ++ cnt) &&& 0xFF000000 = op ++ (0 : Count24) := by
  rw [show (0xFF000000 : Word) = (0xFF : BitVec 8) ++ (0 : Count24) by rfl, BitVec.and_append,
    show (0xFF : BitVec 8) = BitVec.allOnes 8 by rfl, BitVec.and_allOnes]
  simp

/-- FINIT (R72). -/
theorem finit : Statement .finit := ⟨by decide, by decide⟩

/-- PUSH b, for every byte (R73). -/
theorem push (b : Byte) : Statement (.push b) :=
  ⟨beq_iff_eq.2 ((formatB_masked 0x02 b).trans rfl), by simp [Instr.row, opTable]⟩

/-- POP (R72). -/
theorem pop : Statement .pop := ⟨by decide, by decide⟩

/-- EMPTY (R72). -/
theorem empty : Statement .empty := ⟨by decide, by decide⟩

/-- XLAT b, for every byte (R73). -/
theorem xlat (b : Byte) : Statement (.xlat b) :=
  ⟨beq_iff_eq.2 ((formatB_masked 0x05 b).trans rfl), by simp [Instr.row, opTable]⟩

/-- DINIT (R72). -/
theorem dinit : Statement .dinit := ⟨by decide, by decide⟩

/-- IRQ (R72). -/
theorem irq : Statement .irq := ⟨by decide, by decide⟩

/-- READ cnt, base, for every count and base (R74). -/
theorem read (cnt : Count24) (base : Word) : Statement (.read cnt base) :=
  ⟨beq_iff_eq.2 ((formatR_masked opRead cnt).trans rfl), by simp [Instr.row, opTable]⟩

end Sys2Proof.Laws.EncodedRow
end

