-- ==== Sys2Proof/Tests/Slice0.lean ====
section
/-! SUPPORT. Tests whose expected results are the spec's vectors (95_test_vectors.md), and for every statement with hypotheses a
named witness: a concrete state and operands that meet them together. -/

open Sys2Proof Sys2Proof.Machine

namespace Sys2Proof.Tests

/-! ## Helpers -/

/-- A value of the next state; none on a stop. -/
def after {α : Type} (r : Result) (f : State → α) : Option α :=
  match r with
  | .next s => some (f s)
  | .fault _ => none
  | .refused _ => none

/-- The reset state of an instance with N = 4, ADDR_W = 32, port 0x60, line 1, and 256 writable bytes at 0x4000. -/
def demo : State := { State.reset with params := ⟨4, 32, 0x60, 1, [⟨0x4000, 0x100⟩]⟩ }

/-- `demo` with a FIFO. -/
def withFifo (head tail count : Nat) (mem : Memory) : State :=
  { demo with head := head, tail := tail, count := count, mem := mem }

/-- As if the Producer issued the next command. -/
def byProducer (s : State) : State := { s with issuer := .producer }

/-- Full, TAIL = HEAD = 0 (V12). -/
def full : State := withFifo 0 0 4 [(0, 0x11), (1, 0x22), (2, 0x33), (3, 0x1E)]

/-- One code, 0x1E, at HEAD. -/
def oneCode : State := withFifo 0 1 1 [(0, 0x1E)]

/-- One code, 0x2A (a left-shift press), at HEAD. -/
def oneShift : State := withFifo 0 1 1 [(0, 0x2A)]

/-- The handler is registered: after DINIT, or with a FIFO since filled. -/
def registered (s : State) : State := { s with irqReg := true, history := [.register 1] }

/-- Inside a READ call. -/
def reading (cnt : Count24) (base : Word) (written : Count24) (s : State) : State :=
  { s with rdActive := true, rdReq := cnt, rdBase := base, rdWritten := written }

/-- With these attempts to come. -/
def offered (as : List Attempt) (s : State) : State := { s with inbox := as }

/-- HEAD, TAIL and COUNT. -/
def fifoOf (s : State) : Nat × Nat × Nat := (s.head, s.tail, s.count)

/-- The words of the responses. -/
def words (s : State) : List Word := s.responses.map Response.word

/-! ## Decoding: each constructor's word, written out from R72 to R76 -/

/-- FINIT: OP 0x01, 24 zeros. -/
theorem test_decode_finit : decode 32 ⟨0b00000001000000000000000000000000, none⟩ = .ok .finit := by decide
/-- PUSH 0x1E: OP 0x02, 16 zeros, 0x1E (R81). -/
theorem test_decode_push : decode 32 ⟨0b00000010000000000000000000011110, none⟩ = .ok (.push 0x1E) := by decide
/-- POP: OP 0x03. -/
theorem test_decode_pop : decode 32 ⟨0b00000011000000000000000000000000, none⟩ = .ok .pop := by decide
/-- EMPTY: OP 0x04. -/
theorem test_decode_empty : decode 32 ⟨0b00000100000000000000000000000000, none⟩ = .ok .empty := by decide
/-- XLAT 0xFF: OP 0x05 (V7). -/
theorem test_decode_xlat : decode 32 ⟨0b00000101000000000000000011111111, none⟩ = .ok (.xlat 0xFF) := by decide
/-- DINIT: OP 0x06. -/
theorem test_decode_dinit : decode 32 ⟨0b00000110000000000000000000000000, none⟩ = .ok .dinit := by decide
/-- IRQ: OP 0x07. -/
theorem test_decode_irq : decode 32 ⟨0b00000111000000000000000000000000, none⟩ = .ok .irq := by decide
/-- READ 16777215, 0xFFFFFFFF: OP 0x08 and the largest count and base (V8). -/
theorem test_decode_read :
    decode 32 ⟨0b00001000111111111111111111111111, some 0xFFFFFFFF⟩ = .ok (.read 0xFFFFFF 0xFFFFFFFF) := by decide
/-- V9: the bytes BA 00 00 05 are XLAT 0xBA. -/
theorem test_decode_bytes : decodeBytes 32 [0xBA, 0x00, 0x00, 0x05] = .ok (.xlat 0xBA, []) := by decide
/-- READ's second word is taken off the byte stream, low byte first; what follows is left. -/
theorem test_decode_bytes_read :
    decodeBytes 32 [0x10, 0x00, 0x00, 0x08, 0x00, 0x10, 0x00, 0x00, 0x7F] = .ok (.read 16 0x1000, [0x7F]) := by decide
/-- V1, V2, V3. -/
theorem test_decode_unassigned :
    decode 32 ⟨0x00000000, none⟩ = .error .unassignedOpcode ∧ decode 32 ⟨0x09000000, none⟩ = .error .unassignedOpcode ∧
    decode 32 ⟨0xFF000000, none⟩ = .error .unassignedOpcode := by decide
/-- V4, V5. -/
theorem test_decode_nonzero :
    decode 32 ⟨0x03000001, none⟩ = .error .nonzeroField ∧ decode 32 ⟨0x02000100, none⟩ = .error .nonzeroField := by decide
/-- The table's word for PUSH, numbered as the host numbers it. -/
theorem test_decode_table_word : decodeTableWord 32 0x020000AB = some (.push 0xAB) := by decide
/-- READ with its operand word of zeros. -/
theorem test_decode_table_word_read : decodeTableWord 32 0x08000010 = some (.read 16 0) := by decide

/-! ## WellFormed: an ill-formed term for each check -/

/-- READ's base must fit ADDR_W bits (R74): the largest that fits, the smallest that does not, and its word is illegal (R77). -/
theorem test_wellFormed_base :
    (Instr.read 1 0xFFFF).wellFormed 16 = true ∧ (Instr.read 1 0x10000).wellFormed 16 = false ∧
    decode 16 (encode (.read 1 0x10000)) = .error .baseTooWide := by decide
/-- R9: N = 0, ADDR_W = 0 and ADDR_W = 33 are no instances; N = 1 with ADDR_W = 1 or 32 is. -/
theorem test_params_wf :
    ¬ Params.wf ⟨0, 32, 0, 0, []⟩ ∧ ¬ Params.wf ⟨4, 0, 0, 0, []⟩ ∧ ¬ Params.wf ⟨4, 33, 0, 0, []⟩ ∧
    Params.wf ⟨1, 1, 0, 0, []⟩ ∧ Params.wf ⟨1, 32, 0, 0, []⟩ := by decide

/-! ## One step of each command -/

/-- V17. -/
theorem test_finit :
    after (exec .finit (withFifo 2 1 3 [(0, 0x11), (1, 0x22), (2, 0x33), (3, 0x44)])) (fun t => (fifoOf t, t.mem, words t)) =
      some ((0, 0, 0), [(0, 0x11), (1, 0x22), (2, 0x33), (3, 0x44)], [0]) := by decide
/-- V11: TAIL wraps. -/
theorem test_push_wraps :
    after (exec (.push 0x1E) (byProducer (withFifo 0 3 3 [(0, 0x11), (1, 0x22), (2, 0x33)])))
      (fun t => (fifoOf t, t.mem.read 3, words t)) = some ((0, 0, 4), some 0x1E, [1]) := by decide
/-- V12: a full FIFO drops the byte. -/
theorem test_push_full :
    after (exec (.push 0x30) (byProducer full)) (fun t => (fifoOf t, t.mem, words t)) =
      some ((0, 0, 4), full.mem, [0]) := by decide
/-- V13: HEAD wraps. -/
theorem test_pop_wraps :
    after (exec .pop (withFifo 3 1 2 [(0, 0x55), (3, 0x2A)])) (fun t => (fifoOf t, t.mem, words t)) =
      some ((0, 1, 1), [(0, 0x55), (3, 0x2A)], [0x2A]) := by decide
/-- V14, and P6a's recorded HEAD = 1. -/
theorem test_pop_empty :
    after (exec .pop (withFifo 1 1 0 [(0, 0x1E)])) (fun t => (fifoOf t, t.fault, words t)) =
      some ((1, 1, 0), some ⟨.popEmpty 1, .consumer, [0x03000000]⟩, []) := by decide
/-- V15. -/
theorem test_empty : after (exec .empty demo) words = some [1] := by decide
/-- V16: full, with HEAD = TAIL = 2. -/
theorem test_empty_full :
    after (exec .empty (withFifo 2 2 4 [(0, 1), (1, 2), (2, 3), (3, 4)])) words = some [0] := by decide
/-- V26: caps, then shift. -/
theorem test_xlat_letter :
    after (exec (.xlat 0x1E) { demo with mods := ⟨true, true, true⟩ }) (fun t => (t.mods, words t)) =
      some (⟨true, true, true⟩, [0x141]) := by decide
/-- V39m: a repeated left-shift make toggles back. -/
theorem test_xlat_shift :
    after (exec (.xlat 0x2A) { demo with mods := ⟨true, false, false⟩ }) (fun t => (t.mods, words t)) =
      some (⟨false, false, false⟩, [0]) := by decide
/-- V40b. -/
theorem test_dinit :
    after (exec .dinit { oneCode with mods := ⟨false, false, true⟩ }) (fun t => (fifoOf t, t.mods, t.irqReg, t.history)) =
      some ((0, 0, 0), ⟨false, false, false⟩, true, [.register 1]) := by decide
/-- V40c. -/
theorem test_dinit_twice :
    after (exec .dinit (registered demo)) (fun t => (t.refused, t.history)) =
      some (some ⟨.doubleInit, .consumer, [0x06000000]⟩, [.register 1]) := by decide
/-- V40h. -/
theorem test_irq :
    after (exec .irq (byProducer { registered demo with portAnswer := some 0xFA })) (fun t => (fifoOf t, t.mem, t.history, words t)) =
      some ((0, 1, 1), [(0, 0xFA)], [.register 1, .portRead 0x60 0xFA, .ack], [0x0000FA01]) := by decide
/-- V40i: a full FIFO still acknowledges. -/
theorem test_irq_full :
    after (exec .irq (byProducer { registered full with portAnswer := some 0x12 })) (fun t => (fifoOf t, t.mem, t.history, words t)) =
      some ((0, 0, 4), full.mem, [.register 1, .portRead 0x60 0x12, .ack], [0x00001200]) := by decide
/-- R160's example. -/
theorem test_read :
    after (exec (.read 16 0x1000) demo) (fun t => (t.rdActive, t.rdBase, t.rdReq, t.rdWritten, words t)) =
      some (true, 0x1000, 16, 0, []) := by decide
/-- V43's second STEP: 0x30 is `b`, written at 0x4001. -/
theorem test_read_iteration :
    after (execReadStep (reading 2 0x4000 1 (withFifo 1 3 2 [(0, 0x1E), (1, 0x30), (2, 0x2E)])))
      (fun t => (fifoOf t, t.cmem, t.rdWritten, t.history)) =
      some ((2, 3, 1), [(0x4001, 0x62)], 2, [.memWrite 0x4001 0x62]) := by decide
/-- V42: READ of 0 completes at the first STEP. -/
theorem test_read_completion :
    after (execReadStep (reading 0 0x4000 0 oneCode)) (fun t => (fifoOf t, t.rdActive, words t)) =
      some ((0, 1, 1), false, [0]) := by decide
/-- V47: the launch memory does not admit 0x5000. -/
theorem test_read_stuck :
    after (execReadStep (reading 1 0x5000 0 oneCode)) (fun t => (fifoOf t, t.rdActive, t.last, words t)) =
      some ((0, 1, 1), true, some .noStep, []) := by decide

/-! ## One step of the machine -/

/-- V6: decoding comes before the agent check. -/
theorem test_step_illegal_before_agent :
    after (step (offered [.issue .producer ⟨0x03000001, none⟩ none] demo)) (·.fault) =
      some (some ⟨.illegalCmd [0x03000001], .producer, [0x03000001]⟩) := by decide
/-- V21: the Producer issues POP. -/
theorem test_step_wrong_agent :
    after (step (offered [.issue .producer ⟨0x03000000, none⟩ none] demo)) (·.refused) =
      some (some ⟨.wrongAgent, .producer, [0x03000000]⟩) := by decide
/-- V40e: IRQ before DINIT is no step; no mark is set. -/
theorem test_step_irq_not_enabled :
    after (step (offered [.issue .producer ⟨0x07000000, none⟩ none] demo))
      (fun t => (t.last, t.fault, t.refused, t.history)) = some (some .noStep, none, none, []) := by decide
/-- V52: invariants 3 and 5 both fail; 3 is recorded, before everything else. -/
theorem test_step_invariant :
    after (step (offered [.issue .consumer ⟨0x04000000, none⟩ none] (withFifo 0 0 2 []))) (·.fault) =
      some (some ⟨.invariant 3, .consumer, [0x04000000]⟩) := by decide
/-- V54: decoding comes before the busy check. -/
theorem test_step_illegal_before_busy :
    after (step (offered [.issue .consumer ⟨0x00000000, none⟩ none] (reading 1 0x4000 0 (registered demo)))) (·.fault) =
      some (some ⟨.illegalCmd [0x00000000], .consumer, [0x00000000]⟩) := by decide
/-- A table word placed for the next step is run by it: FINIT, from reset. -/
theorem test_withFetchWord :
    after (step (State.reset.withFetchWord 32 0x01000000)) (fun t => (t.last, words t)) = some (some .ran, [0]) := by decide
/-- R79: the text of a program line. -/
theorem test_program_text : (ProgramLine.cmd .consumer (.read 16 0x1000)).text = "C: READ 0x10, 0x1000" := by decide

/-- R79: the byte of an `IRQ` line is the answer to that line's PortRead. The first IRQ comes before DINIT and is no step (R204), so
its byte is never read; the second reads its own. -/
theorem test_irq_byte_is_its_own :
    after (run 3 (State.load [.irqByte 0x1E, .cmd .consumer .dinit, .irqByte 0x30] demo)) (fun t => (t.history, t.queue)) =
      some ([.register 1, .portRead 0x60 0x30, .ack], [0x30]) := by decide
/-- R243: with no command left, the reset state has ended, though a READ step is left to attempt; with a command left it has not. -/
theorem test_ended :
    (offered [.readStep, .issue .producer (encode .irq) none] demo).Ended ∧
    ¬ (offered [.issue .consumer (encode .empty) none] demo).Ended := by
  unfold State.Ended
  decide
/-- R244: an IRQ before DINIT is no step (R204) and uses none of the budget. -/
theorem test_irq_budget : (offered [.issue .producer (encode .irq) none] demo).IrqBudget 0 [] := by
  have h : ∀ n t, run n (offered [.issue .producer (encode .irq) none] demo) = .next t → t.history = [] := by
    have idle : ∀ n, run n { offered [] demo with issuer := .producer, last := some .noStep } =
        .next { offered [] demo with issuer := .producer, last := some .noStep } := by
      intro n
      induction n with
      | zero => rfl
      | succ n ih => exact ih
    intro n t h
    cases n with
    | zero => cases h; rfl
    | succ n => cases (idle n).symm.trans h; rfl
  exact fun n t ht => ⟨[], h n t ht, Nat.le_refl 0, List.prefix_refl []⟩
/-- R21: the block's own step, its parameters as arguments, answers PUSH (V11) as the machine does. -/
theorem test_block_step :
    Block.step demo.params (.issue .producer (encode (.push 0x1E)) none) 0 (withFifo 0 3 3 [(0, 0x11), (1, 0x22), (2, 0x33)]).toBlock =
      .next ⟨(withFifo 0 0 4 [(0, 0x11), (1, 0x22), (2, 0x33), (3, 0x1E)]).toBlock, [⟨.producer, 1⟩], some .ran⟩ := rfl

/-! ## Witnesses: the hypotheses of each statement, met together -/

/-- The outcome is a next state. -/
def answers (r : Result) : Prop := ∃ t, r = .next t

/-- Every field of the invariant, checked of `demo`. -/
theorem witness_inv_demo : demo.Inv :=
  ⟨by decide, by decide, by decide, by decide, by decide, by decide, by decide, by decide, by decide, by decide, by decide,
    by decide, by decide, by decide⟩

/-- The invariant inside a READ call that has written one of its two characters, with the FIFO part full. -/
def midRead : State :=
  { reading 2 0x4000 1 (withFifo 1 3 2 [(0, 0x1E), (1, 0x30), (2, 0x2E)]) with
    irqReg := true
    history := [.register 1, .portRead 0x60 0x1E, .ack, .portRead 0x60 0x30, .ack, .portRead 0x60 0x2E, .ack,
      .memWrite 0x4000 0x61]
    cmem := [(0x4000, 0x61)] }

theorem witness_inv_midRead : midRead.Inv :=
  ⟨by decide, by decide, by decide, by decide, by decide, by decide, by decide, by decide, by decide, by decide, by decide,
    by decide, by decide, by decide⟩

theorem witness_DecodeOfEncodeIsIdentity :
    (Instr.read 0xFFFFFF 0xFFFF).wellFormed 16 = true ∧ (Instr.push 0xFF).wellFormed 1 = true := by decide

theorem witness_EncodeOfDecodeIsIdentity :
    decode 16 ⟨0x08FFFFFF, some 0xFFFF⟩ = .ok (.read 0xFFFFFF 0xFFFF) ∧ decode 1 ⟨0x020000FF, some 5⟩ = .ok (.push 0xFF) := by
  decide

theorem witness_ByteStreamDecodesToTheCommand :
    (Instr.read 0 0).wellFormed 1 = true ∧ (Instr.xlat 0xBA).wellFormed 32 = true := by decide

/-- READ brings its extension word (legal and too wide); any other OP needs none. -/
theorem witness_IllegalEncodingsAreTheFiveCases :
    (opOf (0x08000000 : Word) = 0x08 → (some (0x10000 : Word)) ≠ none) ∧ (opOf (0x03000001 : Word) = 0x08 → (none : Option Word) ≠ none) ∧
    decode 16 ⟨0x08000000, some 0x10000⟩ = .error .baseTooWide ∧ decode 16 ⟨0x08000000, some 0xFFFF⟩ = .ok (.read 0 0xFFFF) := by
  decide

/-- A one-word command without and with a second word, and READ with its own. -/
theorem witness_DecoderFollowsMatchMaskTable :
    (decode 32 ⟨0x020000FF, none⟩ = .ok (.push 0xFF) ∧ decode 32 ⟨0x020000FF, some 0⟩ = .ok (.push 0xFF) ∧
      decode 32 ⟨0x08000010, some 0⟩ = .ok (.read 16 0)) ∧
    ((⟨0xFFFFFF00, 0x02000000⟩ : OpRow) ∈ opTable ∧ (0x020000FF : Word) &&& 0xFFFFFF00 = 0x02000000) ∧
    (opOf (0x020000FF : Word) = 0x08 → (none : Option Word) ≠ none) ∧
    ((⟨0xFF000000, 0x08000000⟩ : OpRow) ∈ opTable ∧ (0x08000010 : Word) &&& 0xFF000000 = 0x08000000) := by decide

/-- Both clauses: a command and a READ step are the next choice. -/
theorem witness_StepRunsTheDecodedCommand :
    (demo.fault = none ∧ demo.refused = none ∧ demo.brokenInvariant = none) ∧
    (offered [.issue .producer ⟨0x020000FF, none⟩ none] demo).inbox = [.issue .producer ⟨0x020000FF, none⟩ none] ∧
    decode demo.params.addrW ⟨0x020000FF, none⟩ = .ok (.push 0xFF) ∧
    (offered [.readStep] midRead).inbox = [.readStep] ∧ midRead.brokenInvariant = none := by decide

theorem witness_IllegalCommandFaults :
    midRead.fault = none ∧ midRead.refused = none ∧ midRead.brokenInvariant = none ∧
    decode midRead.params.addrW ⟨0x09000000, none⟩ = .error .unassignedOpcode := by decide

/-- A state that breaks no invariant, and one for each number that R201 can record. -/
theorem witness_BrokenInvariantIsTheLowestNumbered :
    full.brokenInvariant = none ∧ (withFifo 0 0 5 []).brokenInvariant = some 1 ∧ (withFifo 4 0 0 []).brokenInvariant = some 2 ∧
    (withFifo 0 0 2 []).brokenInvariant = some 3 ∧ (withFifo 0 1 1 []).brokenInvariant = some 6 := by decide

theorem witness_BrokenInvariantFaultsEveryAttempt :
    (withFifo 0 1 1 []).fault = none ∧ (withFifo 0 1 1 []).refused = none ∧ (withFifo 0 1 1 []).brokenInvariant = some 6 := by
  decide

/-- Both marks. -/
theorem witness_MarkedStateHasNoStep :
    ({ demo with fault := some ⟨.popEmpty 0, .consumer, [0x03000000]⟩ } : State).fault = some ⟨.popEmpty 0, .consumer, [0x03000000]⟩ ∧
    ({ demo with refused := some ⟨.doubleInit, .consumer, [0x06000000]⟩ } : State).fault = none := by decide

/-- A POP on the empty FIFO, through the step. -/
theorem witness_FaultEntryIsPrecise :
    demo.fault = none ∧
    after (step (offered [.issue .consumer (encode .pop) none] demo)) (·.fault) =
      some (some ⟨.popEmpty 0, .consumer, [0x03000000]⟩) := by decide

/-- The three reasons, through the step. -/
theorem witness_RefusalEntryChangesOnlyTheMark :
    (demo.refused = none ∧ midRead.refused = none ∧ (registered demo).refused = none) ∧
    after (step (offered [.issue .consumer (encode .irq) none] demo)) (·.refused) = some (some ⟨.wrongAgent, .consumer, [0x07000000]⟩) ∧
    after (step (offered [.issue .consumer (encode .pop) none] midRead)) (·.refused) =
      some (some ⟨.consumerBusy, .consumer, [0x03000000]⟩) ∧
    after (step (offered [.issue .consumer (encode .dinit) none] (registered demo))) (·.refused) =
      some (some ⟨.doubleInit, .consumer, [0x06000000]⟩) := by decide

/-- The four outcomes, each of an attempt that is offered. -/
theorem witness_EveryAttemptHasOneOfFourOutcomes :
    (demo.fault = none ∧ demo.refused = none ∧ (offered [.readStep] demo).inbox = [.readStep]) ∧
    after (step (offered [.issue .consumer (encode .empty) none] demo)) (·.last) = some (some .ran) ∧
    after (step (offered [.issue .consumer (encode .pop) none] demo)) (·.last) = some (some .faulted) ∧
    after (step (offered [.issue .producer (encode .pop) none] demo)) (·.last) = some (some .refused) ∧
    after (step (offered [.readStep] demo)) (·.last) = some (some .noStep) := by decide

theorem witness_WrongAgentIsRefused :
    demo.issuer ≠ (Instr.push 0x1E).agent ∧ (byProducer demo).issuer ≠ Instr.pop.agent := by decide

theorem witness_BusyConsumerIsRefused :
    (Instr.read 1 0).agent = .consumer ∧ midRead.issuer = .consumer ∧ midRead.rdActive = true := by decide

/-- FINIT, POP, EMPTY, XLAT, DINIT and READ start from an idle Consumer: `demo` is one. -/
theorem witness_FinitEmptiesTheFifo : demo.issuer = .consumer ∧ demo.rdActive = false := by decide

/-- Room for one last byte, and none, also inside a READ call and with no handler. -/
theorem witness_PushAppendsOrDrops :
    (byProducer (withFifo 0 3 3 [(0, 1), (1, 2), (2, 3)])).issuer = .producer ∧
    (withFifo 0 3 3 [(0, 1), (1, 2), (2, 3)]).count ≠ demo.params.depth ∧ full.count = full.params.depth ∧
    (byProducer full).issuer = .producer ∧ (byProducer midRead).rdActive = true := by decide

/-- The three clauses: a written head entry, an empty FIFO, an unwritten head entry. -/
theorem witness_PopReturnsTheOldestOrFaults :
    (oneCode.issuer = .consumer ∧ oneCode.rdActive = false) ∧ (oneCode.count ≠ 0 ∧ oneCode.mem.read oneCode.head = some 0x1E) ∧
    demo.count = 0 ∧ ((withFifo 0 1 1 []).count ≠ 0 ∧ (withFifo 0 1 1 []).mem.read (withFifo 0 1 1 []).head = none) := by decide

theorem witness_EmptyTestsCountAlone :
    (demo.issuer = .consumer ∧ demo.rdActive = false ∧ demo.count = 0) ∧
    (full.issuer = .consumer ∧ full.rdActive = false ∧ full.count ≠ 0 ∧ full.head = full.tail) := by decide

/-- SOME and NONE. -/
theorem witness_XlatAppliesT :
    (demo.issuer = .consumer ∧ demo.rdActive = false) ∧ translate 0x1E demo.mods = (some 0x61, demo.mods) ∧
    translate 0xBA demo.mods = (none, ⟨false, false, true⟩) := by decide

theorem witness_DinitStartsTheDriverOnce :
    (demo.issuer = .consumer ∧ demo.rdActive = false ∧ demo.irqReg = false) ∧
    ((registered demo).issuer = .consumer ∧ (registered demo).rdActive = false ∧ (registered demo).irqReg = true) := by decide

/-- The handler not registered; registered with room; registered and full. -/
theorem witness_IrqReadsPushesAcknowledges :
    (byProducer demo).issuer = .producer ∧
    (0xFA : Byte) = ({ demo with portAnswer := some 0xFA } : State).portAnswer.getD (Config.portDraw demo.drawIndex) ∧
    demo.irqReg = false ∧ ((registered demo).irqReg = true ∧ (registered demo).count ≠ demo.params.depth) ∧
    ((registered full).irqReg = true ∧ (registered full).count = full.params.depth) := by
  refine ⟨by decide, rfl, by decide, by decide, by decide⟩

/-- Where the attempt fixes no answer the port's is the free draw. -/
theorem witness_IrqReadsPushesAcknowledges_draw :
    Config.portDraw demo.drawIndex = demo.portAnswer.getD (Config.portDraw demo.drawIndex) := rfl

theorem witness_IrqIsPortReadPushAck :
    (byProducer (registered demo)).issuer = .producer ∧ (byProducer (registered demo)).irqReg = true ∧
    answers (exec (.push 0xFA) (byProducer (registered demo))) ∧
    answers (exec .irq { byProducer (registered demo) with portAnswer := some 0xFA }) :=
  ⟨rfl, rfl, ⟨_, rfl⟩, ⟨_, rfl⟩⟩

theorem witness_ReadBeginsTheCall : demo.issuer = .consumer ∧ demo.rdActive = false := by decide

/-- NONE; SOME at an admitted and at an unadmitted address; an unwritten entry. -/
theorem witness_ReadIterationPopsTranslatesWrites :
    ((reading 1 0x4000 0 oneShift).rdActive = true ∧ (reading 1 0x4000 0 oneShift).rdWritten.toNat < (reading 1 0x4000 0 oneShift).rdReq.toNat ∧
      0 < oneShift.count) ∧
    (oneShift.mem.read oneShift.head = some 0x2A ∧ translate 0x2A oneShift.mods = (none, ⟨true, false, false⟩)) ∧
    (oneCode.mem.read oneCode.head = some 0x1E ∧ translate 0x1E oneCode.mods = (some 0x61, oneCode.mods) ∧ 0 < oneCode.count) ∧
    (admits demo.params ((0x40FF : Word).toNat + (0 : Count24).toNat) = true ∧
      admits demo.params ((0x40FF : Word).toNat + (1 : Count24).toNat) = false) ∧
    (0 < (withFifo 0 1 1 []).count ∧ (withFifo 0 1 1 []).mem.read (withFifo 0 1 1 []).head = none) := by decide

/-- Each condition alone. -/
theorem witness_ReadCompletionReturnsTheCount :
    ((reading 0 0x4000 0 oneCode).rdActive = true ∧ (reading 0 0x4000 0 oneCode).rdWritten = (reading 0 0x4000 0 oneCode).rdReq) ∧
    ((reading 5 0x4000 0 demo).rdActive = true ∧ (reading 5 0x4000 0 demo).count = 0) := by decide

/-- Outside a call; an iteration; the two completions, each condition alone; the iteration whose write is not admitted; the
Producer's two commands meanwhile. -/
theorem witness_ReadStepIsTheIterationOrTheCompletion :
    demo.rdActive = false ∧
    (midRead.rdActive = true ∧ midRead.rdWritten.toNat ≤ midRead.rdReq.toNat ∧ midRead.iterates = true) ∧
    ((reading 0 0x4000 0 oneCode).completes = true ∧ (reading 5 0x4000 0 demo).completes = true) ∧
    ((reading 1 0x5000 0 oneCode).iterates = true ∧ oneCode.mem.read oneCode.head = some 0x1E ∧
      (translate 0x1E oneCode.mods).1 = some 0x61 ∧ admits oneCode.params ((0x5000 : Word).toNat + (0 : Count24).toNat) = false) ∧
    ((Instr.push 1).agent = .producer ∧ Instr.irq.agent = .producer ∧ (byProducer midRead).issuer = .producer ∧
      (byProducer midRead).irqReg = true) := by decide

/-- A run in which no READ begins (the second alternative), one in which READ begins (the first), and one that stops. -/
theorem witness_CallRegistersAreNotReadOutsideACall :
    demo.rdActive = false ∧
    after (run 2 (offered [.readStep, .issue .consumer (encode .empty) none] demo)) (fun t => (t.rdActive, t.rdReq)) =
      some (false, 0) ∧
    after (run 1 (offered [.issue .consumer (encode (.read 3 0x4000)) none] demo)) (fun t => (t.rdActive, t.rdReq)) =
      some (true, 3) ∧
    run 2 (offered [.issue .consumer (encode .pop) none] demo) = .fault (.marked ⟨.popEmpty 0, .consumer, [0x03000000]⟩) ∧
    run 2 (offered [.issue .producer (encode .pop) none] demo) = .refused (.marked ⟨.wrongAgent, .producer, [0x03000000]⟩) :=
  ⟨by decide, by decide, by decide, rfl, rfl⟩

theorem witness_FifoCommandsTouchOnlyTheFifo :
    answers (exec .finit full) ∧ answers (exec .pop full) ∧ answers (exec .empty full) ∧ answers (exec (.push 1) (byProducer oneCode)) :=
  ⟨⟨_, rfl⟩, ⟨_, rfl⟩, ⟨_, rfl⟩, ⟨_, rfl⟩⟩

theorem witness_NonStoringCommandsKeepEveryByte :
    (Instr.xlat 0x2A).agent = .consumer ∧ answers (exec (.xlat 0x2A) full) ∧ answers (exec .dinit full) ∧
    answers (exec (.read 1 0x4000) full) := ⟨rfl, ⟨_, rfl⟩, ⟨_, rfl⟩, ⟨_, rfl⟩⟩

theorem witness_ProducerStoresOnlyAtTail :
    (Instr.push 1).agent = .producer ∧ Instr.irq.agent = .producer ∧ answers (exec (.push 1) (byProducer oneCode)) ∧
    answers (exec .irq (byProducer (registered full))) := ⟨rfl, rfl, ⟨_, rfl⟩, ⟨_, rfl⟩⟩

theorem witness_ReadStepWritesOnlyTheOutputByte : answers (execReadStep midRead) := ⟨_, rfl⟩

/-- A step of each agent, and one that empties the FIFO. -/
theorem witness_OwnershipDisciplineHolds :
    answers (step (offered [.issue .producer (encode (.push 1)) none] oneCode)) ∧ answers (step (offered [.readStep] midRead)) ∧
    answers (step (offered [.issue .consumer (encode .finit) none] oneCode)) :=
  ⟨⟨_, rfl⟩, ⟨_, rfl⟩, ⟨_, rfl⟩⟩

theorem witness_NeitherAgentReadsTheOthersIndex :
    (Instr.push 1).agent = .producer ∧ answers (exec (.push 1) (byProducer oneCode)) ∧ answers (exec .pop oneCode) ∧
    answers (execReadStep midRead) := ⟨rfl, ⟨_, rfl⟩, ⟨_, rfl⟩, ⟨_, rfl⟩⟩

/-- XLAT of a shift press, a READ step over one, and DINIT with CAPS set, each of which changes the flags. -/
theorem witness_ModifiersChangeOnlyByTranslation :
    after (step (offered [.issue .consumer (encode (.xlat 0x2A)) none] demo)) (·.mods) = some ⟨true, false, false⟩ ∧
    after (step (offered [.readStep] (reading 1 0x4000 0 oneShift))) (·.mods) = some ⟨true, false, false⟩ ∧
    after (step (offered [.issue .consumer (encode .dinit) none] { demo with mods := ⟨false, false, true⟩ })) (·.mods) =
      some ⟨false, false, false⟩ := by decide

/-- DINIT sets IRQ_REG; a later EMPTY leaves it set; an EMPTY before leaves it clear. -/
theorem witness_IrqRegIsSetByDinitAndNeverCleared :
    after (step (offered [.issue .consumer (encode .dinit) none] demo)) (·.irqReg) = some true ∧
    after (step (offered [.issue .consumer (encode .empty) none] (registered demo))) (·.irqReg) = some true ∧
    after (step (offered [.issue .consumer (encode .empty) none] demo)) (·.irqReg) = some false := by decide

theorem witness_HistoryOnlyGrows : answers (step (offered [.issue .consumer (encode .dinit) none] demo)) := ⟨_, rfl⟩

theorem witness_EveryStepKeepsTheInvariant : midRead.Inv ∧ answers (step (offered [.readStep] midRead)) :=
  ⟨witness_inv_midRead, ⟨_, rfl⟩⟩

/-- A reset state of a legal instance with a schedule, and two steps from it. -/
theorem witness_ReachableStatesMeetFifoInvariants :
    (offered [.issue .consumer (encode .dinit) none, .issue .producer (encode (.push 1)) none] demo).ResetState ∧ demo.params.wf ∧
    answers (run 2 (offered [.issue .consumer (encode .dinit) none, .issue .producer (encode (.push 1)) none] demo)) :=
  ⟨⟨rfl, rfl, rfl, rfl, rfl, rfl, rfl, rfl, rfl, rfl, rfl⟩, by decide, ⟨_, rfl⟩⟩

/-- A run that ends in a fault (F_POP_EMPTY). -/
theorem witness_InvariantFaultIsUnreachable :
    demo.Inv ∧ demo.fault = none ∧
    after (run 1 (offered [.issue .consumer (encode .pop) none] demo)) (·.fault) =
      some (some ⟨.popEmpty 0, .consumer, [0x03000000]⟩) := ⟨witness_inv_demo, rfl, by decide⟩

theorem witness_IndicesAndCountFitTheirWidths : midRead.Inv := witness_inv_midRead

/-- Room, full, a first entry, an empty queue. -/
theorem witness_QueueListLaws :
    (oneCode.brokenInvariant = none ∧ oneCode.rdActive = false ∧ oneCode.queue = [0x1E] ∧ oneCode.queue.length < oneCode.params.depth) ∧
    (full.brokenInvariant = none ∧ full.rdActive = false ∧ full.queue.length = full.params.depth) ∧
    (demo.brokenInvariant = none ∧ demo.rdActive = false ∧ demo.queue = []) := by decide

theorem witness_CapacityPlusOneDropsTheLast :
    demo.brokenInvariant = none ∧ demo.count = 0 ∧ demo.rdActive = false ∧ [(1 : Byte), 2, 3, 4].length = demo.params.depth := by decide

/-- The table's three rows, at 0, 1, N - 1 and N entries. -/
theorem witness_PushAndPopInEitherOrder :
    (demo.brokenInvariant = none ∧ demo.rdActive = false ∧ demo.fault = none ∧ demo.count = 0) ∧
    (oneCode.brokenInvariant = none ∧ 0 < oneCode.count ∧ oneCode.count < oneCode.params.depth) ∧
    ((withFifo 0 3 3 [(0, 1), (1, 2), (2, 3)]).brokenInvariant = none ∧ (withFifo 0 3 3 [(0, 1), (1, 2), (2, 3)]).count < 4) ∧
    (full.brokenInvariant = none ∧ full.rdActive = false ∧ full.fault = none ∧ full.count = full.params.depth) := by decide

/-- A run of a push and a pop. -/
theorem witness_BytesLeaveInTheOrderTheyEntered :
    demo.Inv ∧ answers (run 2 (offered [.issue .producer (encode (.push 1)) none, .issue .consumer (encode .pop) none] demo)) ∧
    ∀ a ∈ [Attempt.issue .producer (encode (.push 1)) none, .issue .consumer (encode .pop) none],
      a.words ≠ (encode .finit).words ∧ a.words ≠ (encode .dinit).words := ⟨witness_inv_demo, ⟨_, rfl⟩, by decide⟩

/-- The queue [0x1E] at index 0 and at index 3, whose TAIL wrapped. -/
theorem witness_QueueDeterminesWhatIsObserved :
    oneCode.brokenInvariant = none ∧ (withFifo 3 0 1 [(0, 0x77), (3, 0x1E)]).brokenInvariant = none ∧
    (withFifo 3 0 1 [(0, 0x77), (3, 0x1E)]).SameButPlace oneCode ∧
    answers (step (offered [.issue .consumer (encode .pop) none] oneCode)) :=
  ⟨by decide, by decide, ⟨by decide, rfl, rfl⟩, ⟨_, rfl⟩⟩

/-- One entry, and a push in between. -/
theorem witness_PopAfterNotEmptyIsSafe :
    (oneCode.brokenInvariant = none ∧ 0 < oneCode.count ∧ oneCode.rdActive = false) ∧
    (∀ a ∈ (offered [.issue .producer (encode (.push 1)) none] oneCode).inbox, a.agent = .producer) ∧
    after (run 1 (offered [.issue .producer (encode (.push 1)) none] oneCode)) (fun t => (t.fault, t.refused)) = some (none, none) := by
  decide

/-- A scan code of each row of R129's table. -/
theorem witness_ScanCodePartition :
    (0x80 ≤ (0xE0 : Byte).toNat ∧ (0xE0 : Byte) ≠ 0xAA ∧ (0xE0 : Byte) ≠ 0xB6 ∧ (0xE0 : Byte) ≠ 0xBA) ∧
    ((0x00 : Byte).toNat < 0x80 ∧ (0x00 : Byte) ≠ 0x2A ∧ (0x00 : Byte) ≠ 0x36 ∧ baseRom ((0x00 : Byte).extractLsb' 0 7) = 0) ∧
    ((0x39 : Byte).toNat < 0x80 ∧ baseRom ((0x39 : Byte).extractLsb' 0 7) ≠ 0) := by decide

theorem witness_CharactersAreNonzeroSevenBit :
    translate 0x29 ⟨true, false, false⟩ = (some 0x7E, ⟨true, false, false⟩) := by decide

theorem witness_ToggleLaws : translate 0x1E ⟨false, false, true⟩ = (some 0x41, ⟨false, false, true⟩) := by decide

/-- An open call with a Producer command between two READ steps; and the step that completes one. -/
theorem witness_ReadStaysWithinTheRequest :
    (midRead.rdActive = true ∧ midRead.rdWritten.toNat ≤ midRead.rdReq.toNat) ∧
    (∀ a ∈ [Attempt.readStep, .issue .producer (encode (.push 1)) none, .readStep], a = .readStep ∨ a.agent = .producer) ∧
    answers (run 3 (offered [.readStep, .issue .producer (encode (.push 1)) none, .readStep] midRead)) ∧
    after (step (offered [.readStep] (reading 5 0x4000 0 demo))) (·.rdActive) = some false :=
  ⟨by decide, by decide, ⟨_, rfl⟩, by decide⟩

/-- V43's call: two characters of a queue of three. -/
def v43 : State :=
  { withFifo 0 3 3 [(0, 0x1E), (1, 0x30), (2, 0x2E)] with
    irqReg := true
    history := [.register 1, .portRead 0x60 0x1E, .ack, .portRead 0x60 0x30, .ack, .portRead 0x60 0x2E, .ack] }

theorem witness_inv_v43 : v43.Inv :=
  ⟨by decide, by decide, by decide, by decide, by decide, by decide, by decide, by decide, by decide, by decide, by decide,
    by decide, by decide, by decide⟩

theorem witness_UndisturbedReadIsTheReference :
    v43.Inv ∧ v43.fault = none ∧ v43.refused = none ∧ v43.rdActive = false ∧ (0x4000 : Word).toNat < 2 ^ v43.params.addrW ∧
    MemAdmits v43.params (0x4000 : Word).toNat (2 : Count24).toNat ∧
    2 + (readReference (2 : Count24).toNat v43.queue v43.mods).2.1.length = v43.queue.length := by
  refine ⟨witness_inv_v43, by decide, by decide, by decide, by decide, ?_, by decide⟩
  intro k hk
  have hk : k < 2 := hk
  interval_cases k <;> decide

/-- Two interrupts, each a break code without effect. -/
theorem witness_ReadNeedNotTerminate :
    ∃ s : State, s.Inv ∧ s.fault = none ∧ s.refused = none ∧ s.irqReg = true ∧ s.rdActive = true ∧
      s.rdWritten.toNat < s.rdReq.toNat ∧ s.count = 0 ∧
      s.inbox = (List.replicate 2 [Attempt.issue .producer (encode .irq) (some 0x80), .readStep]).flatten :=
  ⟨offered (List.replicate 2 [Attempt.issue .producer (encode .irq) (some 0x80), .readStep]).flatten
      (reading 1 0x4000 0 (registered demo)),
    ⟨by decide, by decide, by decide, by decide, by decide, by decide, by decide, by decide, by decide, by decide, by decide,
      by decide, by decide, by decide⟩, rfl, rfl, rfl, rfl, by decide, rfl, rfl⟩

/-- V47, with a Consumer READ step and a push attempted. -/
theorem witness_UnadmittedWriteSticksTheConsumer :
    (oneCode.brokenInvariant = none ∧ (reading 1 0x5000 0 oneCode).rdActive = true ∧
      (reading 1 0x5000 0 oneCode).rdWritten.toNat < (reading 1 0x5000 0 oneCode).rdReq.toNat ∧ 0 < oneCode.count) ∧
    (oneCode.mem.read oneCode.head = some 0x1E ∧ (translate 0x1E oneCode.mods).1 = some 0x61 ∧
      admits oneCode.params ((0x5000 : Word).toNat + (0 : Count24).toNat) = false) ∧
    answers (run 2 (offered [.readStep, .issue .producer (encode (.push 1)) none] (reading 1 0x5000 0 oneCode))) :=
  ⟨by decide, by decide, ⟨_, rfl⟩⟩

end Sys2Proof.Tests
end

section
/-! The widths of HEAD, TAIL and COUNT (R10, R105). -/

namespace Sys2Proof.Machine

/-! ### What the widths hold -/

/-- IDX_W bits hold every index `0..N-1` of a FIFO of N entries. -/
theorem lt_two_pow_idxWidth {n x : Nat} (h : x < n) : x < 2 ^ idxWidth n :=
  calc
    x < n := h
    _ ≤ 2 ^ Nat.clog 2 n := Nat.le_pow_clog Nat.one_lt_two n
    _ ≤ 2 ^ idxWidth n := Nat.pow_le_pow_right Nat.two_pos (Nat.le_max_right 1 _)

/-- CNT_W bits hold every count `0..N` of a FIFO of N entries. -/
theorem lt_two_pow_cntWidth {n c : Nat} (h : c ≤ n) : c < 2 ^ cntWidth n :=
  calc
    c < n + 1 := Nat.lt_succ_of_le h
    _ ≤ 2 ^ cntWidth n := Nat.le_pow_clog Nat.one_lt_two (n + 1)

/-! ### The ranges under the invariant -/

variable {s : State}

theorem State.Inv.count_le (h : s.Inv) : s.count ≤ s.params.depth := by
  obtain ⟨hcount, -⟩ := (State.brokenInvariant_eq_none s).1 h.fifo
  exact hcount

theorem State.Inv.indices_lt (h : s.Inv) : s.head < s.params.depth ∧ s.tail < s.params.depth := by
  obtain ⟨-, hindices, -⟩ := (State.brokenInvariant_eq_none s).1 h.fifo
  exact hindices

/-- Settles O44: R25's invariants 1 and 2 bound the three values by N, and the widths hold every value in these bounds. -/
theorem indicesAndCountFitTheirWidths : Obligations.IndicesAndCountFitTheirWidths := by
  refine ⟨fun s h => ?_, by decide⟩
  obtain ⟨hhead, htail⟩ := h.indices_lt
  exact ⟨lt_two_pow_idxWidth hhead, lt_two_pow_idxWidth htail, lt_two_pow_cntWidth h.count_le⟩

end Sys2Proof.Machine
end

section
/-! A command that decodes is its encoding (R77): no bit of its words is ignored. -/

namespace Sys2Proof

/-! ### What a word that decodes as one of the three formats looks like -/

theorem decodeZ_eq_ok {i j : Instr} {w : Word} (h : decodeZ i w = .ok j) : low24 w = 0 ∧ j = i := by
  unfold decodeZ at h
  split at h
  · next hz => exact ⟨hz, (Except.ok.inj h).symm⟩
  · cases h

theorem decodeB_eq_ok {mk : Byte → Instr} {j : Instr} {w : Word} (h : decodeB mk w = .ok j) :
    mid16 w = 0 ∧ j = mk (low8 w) := by
  unfold decodeB at h
  split at h
  · next hz => exact ⟨hz, (Except.ok.inj h).symm⟩
  · cases h

theorem decodeR_eq_ok {addrW : Nat} {j : Instr} {w : Word} {w1 : Option Word} (h : decodeR addrW w w1 = .ok j) :
    ∃ base, w1 = some base ∧ base.toNat < 2 ^ addrW ∧ j = .read (low24 w) base := by
  unfold decodeR at h
  split at h
  · cases h
  · next base =>
    split at h
    · next hb => exact ⟨base, rfl, hb, (Except.ok.inj h).symm⟩
    · cases h

/-! ### Its encoding has the same words -/

/-- A Format Z command and the encoding of its OP have the same words. -/
theorem words_encodeZ {c : Command} {op : BitVec 8} (hop : opOf c.w0 = op) (hne : op ≠ opRead) (h : low24 c.w0 = 0) :
    (encodeZ op).words = c.words := by
  subst hop
  simp [Command.words, hne, encodeZ_of_low24 h]

/-- A Format B command and the encoding of its OP and byte have the same words. -/
theorem words_encodeB {c : Command} {op : BitVec 8} (hop : opOf c.w0 = op) (hne : op ≠ opRead) (h : mid16 c.w0 = 0) :
    (encodeB op (low8 c.w0)).words = c.words := by
  subst hop
  simp [Command.words, hne, encodeB_of_mid16 h]

/-- A READ with its extension word and the encoding of its count and base have the same words. -/
theorem words_encodeR {c : Command} {base : Word} (hop : opOf c.w0 = opRead) (h : c.w1 = some base) :
    (encodeR (low24 c.w0) base).words = c.words := by
  simp [Command.words, hop, h, encodeR_of_op hop]

/-- A command that decodes has the words of the decoded command's encoding, and that command is well-formed. -/
theorem words_encode_of_decode {addrW : Nat} {c : Command} {i : Instr} (h : decode addrW c = .ok i) :
    (encode i).words = c.words ∧ i.wellFormed addrW = true := by
  unfold decode at h
  split at h
  case h_9 => cases h
  case h_2 op | h_5 op =>
    obtain ⟨hz, rfl⟩ := decodeB_eq_ok h
    exact ⟨words_encodeB (BitVec.eq_of_toNat_eq op) (by decide) hz, rfl⟩
  case h_8 op =>
    obtain ⟨base, hw1, hb, rfl⟩ := decodeR_eq_ok h
    exact ⟨words_encodeR (BitVec.eq_of_toNat_eq op) hw1, decide_eq_true hb⟩
  all_goals
    next op =>
    obtain ⟨hz, rfl⟩ := decodeZ_eq_ok h
    exact ⟨words_encodeZ (BitVec.eq_of_toNat_eq op) (by decide) hz, rfl⟩

end Sys2Proof
end

section
/-! A step, forwards: where it stops, where it idles, and what an attempt leaves (R207). -/

namespace Sys2Proof.Machine

variable {s : State}

/-- Check 1 of R207, the fault first. -/
theorem step_of_fault {m : FaultMark} (h : s.fault = some m) : step s = .fault (.marked m) := by
  simp [step, select, h]

theorem step_of_refused {m : RefusalMark} (hf : s.fault = none) (h : s.refused = some m) :
    step s = .refused (.marked m) := by
  simp [step, select, hf, h]

theorem step_of_idle (hf : s.fault = none) (hr : s.refused = none) (hi : s.inbox = []) : step s = .next s := by
  simp [step, select, hf, hr, hi]

/-- What an attempt leaves, once it is off the schedule: checks 2 and 3 of R207, then the READ step or the command. -/
def attempted (a : Attempt) (s : State) : State :=
  match s.brokenInvariant with
  | some n => s.enterFault (.invariant n) a.agent a.words
  | none =>
    match a with
    | .readStep => readStepState s
    | .issue ag c _ =>
      match decode s.params.addrW c with
      | .error _ => s.enterFault (.illegalCmd c.words) ag c.words
      | .ok i => checked i (ruleOf i) s

theorem attempted_of_broken {n : Nat} (a : Attempt) (h : s.brokenInvariant = some n) :
    attempted a s = s.enterFault (.invariant n) a.agent a.words := by simp [attempted, h]

theorem attempted_readStep (h : s.brokenInvariant = none) : attempted .readStep s = readStepState s := by
  simp [attempted, h]

theorem attempted_illegal {c : Command} {e : DecodeError} (ag : Agent) (b : Option Byte) (h : s.brokenInvariant = none)
    (hd : decode s.params.addrW c = .error e) :
    attempted (.issue ag c b) s = s.enterFault (.illegalCmd c.words) ag c.words := by simp [attempted, h, hd]

theorem attempted_command {c : Command} {i : Instr} (ag : Agent) (b : Option Byte) (h : s.brokenInvariant = none)
    (hd : decode s.params.addrW c = .ok i) : attempted (.issue ag c b) s = checked i (ruleOf i) s := by
  simp [attempted, h, hd]

/-- An unmarked state with an attempt to make answers what the attempt leaves. -/
theorem step_of_attempt {a : Attempt} {rest : List Attempt} (hf : s.fault = none) (hr : s.refused = none)
    (hi : s.inbox = a :: rest) : step s = .next (attempted a (s.accepted a rest)) := by
  simp only [step, select, hf, hr, hi, selectAttempt, State.brokenInvariant_accepted]
  cases hb : s.brokenInvariant with
  | some n => rw [attempted_of_broken a (by simpa using hb)]
  | none =>
    cases a with
    | readStep => rw [attempted_readStep (by simpa using hb)]; rfl
    | issue ag c b =>
      simp only [State.accepted_params]
      cases hd : decode s.params.addrW c with
      | error e => rw [attempted_illegal (s := s.accepted _ rest) ag b (by simpa using hb) hd]
      | ok i => rw [attempted_command (s := s.accepted _ rest) ag b (by simpa using hb) hd]; exact exec_eq i _

/-- Every state stops at a mark, idles, or makes its next attempt. -/
theorem step_forward_cases (s : State) :
    (∃ m, s.fault = some m) ∨ (s.fault = none ∧ ∃ m, s.refused = some m) ∨
    (s.fault = none ∧ s.refused = none ∧ s.inbox = []) ∨
    (s.fault = none ∧ s.refused = none ∧ ∃ a rest, s.inbox = a :: rest) := by
  cases hf : s.fault with
  | some m => exact .inl ⟨m, rfl⟩
  | none =>
    cases hr : s.refused with
    | some m => exact .inr (.inl ⟨rfl, m, rfl⟩)
    | none =>
      cases hi : s.inbox with
      | nil => exact .inr (.inr (.inl ⟨rfl, rfl, rfl⟩))
      | cons a rest => exact .inr (.inr (.inr ⟨rfl, rfl, a, rest, rfl⟩))

/-- Settles O11: check 1 of R207, the fault before the refusal. -/
theorem markedStateHasNoStep : Obligations.MarkedStateHasNoStep :=
  fun _ => ⟨fun _ => step_of_fault, fun _ => step_of_refused⟩

/-! ### A step, backwards: what tells the steps apart that every invariant is proved from -/

/-- `t` is `s` but for the schedule, the marks and the model's notes on the attempt. -/
def State.MarkedFrom (s t : State) : Prop :=
  ∃ ib ag pb f r l, (f = none ∨ r = none) ∧
    t = { s with inbox := ib, issuer := ag, portAnswer := pb, fault := f, refused := r, last := l }

/-- A step changes the block by the rule of a command, which its own agent issues (the Consumer outside a READ call), or by a
READ step; any other step only sets marks. -/
theorem step_rule_cases {s t : State} (h : step s = .next t) :
    s.MarkedFrom t ∨
    (∃ i c b rest, s.inbox = .issue i.agent c b :: rest ∧ decode s.params.addrW c = .ok i ∧
      (i.agent = .consumer → s.rdActive = false) ∧ t = ruleOf i (s.accepted (.issue i.agent c b) rest)) ∨
    (∃ rest, s.inbox = .readStep :: rest ∧ t = readStepState (s.accepted .readStep rest)) := by
  obtain ⟨hf, hr, ⟨-, rfl⟩ | ⟨a, rest, hi, h⟩⟩ := step_cases h
  · exact .inl ⟨_, _, _, _, _, _, .inl hf, rfl⟩
  rcases h with ⟨n, -, rfl⟩ | ⟨-, ag, c, b, e, rfl, -, rfl⟩ | ⟨-, ag, c, b, i, rfl, hd, hx⟩ | ⟨-, rfl, rfl⟩
  · exact .inl ⟨_, _, _, _, _, _, .inr hr, rfl⟩
  · exact .inl ⟨_, _, _, _, _, _, .inr hr, rfl⟩
  · rcases exec_cases hx with ⟨-, rfl⟩ | ⟨-, -, -, rfl⟩ | ⟨hag, hidle, rfl⟩
    · exact .inl ⟨_, _, _, _, _, _, .inl hf, rfl⟩
    · exact .inl ⟨_, _, _, _, _, _, .inl hf, rfl⟩
    · obtain rfl : ag = i.agent := hag
      exact .inr (.inl ⟨i, c, b, rest, hi, hd, hidle, rfl⟩)
  · exact .inr (.inr ⟨rest, hi, rfl⟩)

end Sys2Proof.Machine
end

section
/-! The invariant of Safety.lean is kept by every step (R25, R20). -/

namespace Sys2Proof.Machine

variable {s t : State}

/-- Setting at most one mark, and moving the schedule on, keeps the invariant. -/
theorem State.Inv.of_markedFrom (h : s.Inv) (hm : s.MarkedFrom t) : t.Inv := by
  obtain ⟨ib, ag, pb, f, r, l, hone, rfl⟩ := hm
  exact (h.of_environment ib ag pb s.drawIndex s.responses l).of_marks f r l hone

theorem State.Inv.accepted (h : s.Inv) (a : Attempt) (rest : List Attempt) : (s.accepted a rest).Inv :=
  h.of_environment rest a.agent a.answer s.drawIndex s.responses s.last

theorem State.Inv.respond (h : s.Inv) (ag : Agent) (w : Word) : (s.respond ag w).Inv :=
  h.of_environment s.inbox s.issuer s.portAnswer s.drawIndex (s.responses ++ [(⟨ag, w⟩ : Response)]) (some .ran)

theorem State.Inv.drawn (h : s.Inv) : s.drawn.Inv :=
  h.of_environment s.inbox s.issuer none (s.drawIndex + 1) s.responses s.last

theorem State.Inv.noted (h : s.Inv) (l : Option StepOutcome) : ({ s with last := l } : State).Inv :=
  h.of_environment s.inbox s.issuer s.portAnswer s.drawIndex s.responses l

theorem State.Inv.enterFault (h : s.Inv) (hr : s.refused = none) (c : FaultCause) (ag : Agent) (ws : List Word) :
    (s.enterFault c ag ws).Inv := h.of_marks _ s.refused _ (.inr hr)

theorem State.Inv.enterRefusal (h : s.Inv) (hf : s.fault = none) (c : RefusalReason) (ag : Agent) (ws : List Word) :
    (s.enterRefusal c ag ws).Inv := h.of_marks s.fault _ _ (.inl hf)

/-- Ending a READ call keeps the invariant. -/
theorem State.Inv.readEnded (h : s.Inv) : s.readEnded.Inv := { h with }

/-- DINIT keeps the invariant: it empties the FIFO, clears the flags and registers the handler, or is refused (R150). -/
theorem State.Inv.bodyDinit (h : s.Inv) (hf : s.fault = none) : (bodyDinit s).Inv := by
  rcases bodyDinit_cases s with ⟨-, e⟩ | ⟨-, e⟩ <;> rw [e]
  · exact h.enterRefusal hf _ _ _
  · exact ((h.emptied.withMods _).handlerRegistered _).respond _ _

/-- IRQ keeps the invariant: its PortRead comes with its Ack, and only after the registration (R155). -/
theorem State.Inv.bodyIrq (h : s.Inv) : (bodyIrq s).Inv := by
  rcases bodyIrq_cases s with ⟨-, e⟩ | ⟨hreg, e⟩ <;> rw [e]
  · exact h.noted _
  · rw [State.pushed_logged]
    exact ((h.drawn.pushed _).portReadAcked (by simpa using hreg) _ _).respond _ _

theorem State.Inv.bodyPop (h : s.Inv) (hr : s.refused = none) : (bodyPop s).Inv := by
  rcases bodyPop_cases s with ⟨-, e⟩ | ⟨-, -, e⟩ | ⟨h0, v, -, e⟩ <;> rw [e]
  · exact h.enterFault hr _ _ _
  · exact h.enterFault hr _ _ _
  · exact (h.removed h0).respond _ _

/-- The rule of a well-formed command keeps the invariant. -/
theorem State.Inv.ruleOf {i : Instr} (h : s.Inv) (hf : s.fault = none) (hr : s.refused = none)
    (hw : i.wellFormed s.params.addrW = true) : (ruleOf i s).Inv := by
  cases i with
  | finit => exact h.emptied.respond _ _
  | push b => exact (h.pushed b).respond _ _
  | pop => exact h.bodyPop hr
  | empty => exact h.respond _ _
  | xlat b => exact (h.withMods _).respond _ _
  | dinit => exact h.bodyDinit hf
  | irq => exact h.bodyIrq
  | read cnt base => exact (h.readBegun cnt (of_decide_eq_true hw)).noted _

/-- A READ step keeps the invariant: it writes only while RD_WRITTEN is below RD_REQ, and only what is admitted (R163). -/
theorem State.Inv.readStepState (h : s.Inv) (hr : s.refused = none) : (readStepState s).Inv := by
  rcases readStep_cases s with ⟨-, e⟩ | ⟨-, -, -, -, e⟩ | ⟨-, -, h0, v, -, -, e⟩ |
    ⟨-, hlt, h0, v, c, -, -, hadm, e⟩ | ⟨-, -, e⟩ <;> rw [e]
  · exact h.noted _
  · exact h.enterFault hr _ _ _
  · exact ((h.removed h0).withMods _).noted _
  · exact (((h.removed h0).withMods _).charWritten c hadm hlt).noted _
  · exact h.readEnded.respond _ _

/-- Settles O41: a step sets marks, or runs the rule of a decoded and so well-formed command, or is a READ step. -/
theorem everyStepKeepsTheInvariant : Obligations.EveryStepKeepsTheInvariant := by
  intro s t h hstep
  obtain ⟨hf, hr, -⟩ := step_cases hstep
  rcases step_rule_cases hstep with hm | ⟨i, c, b, rest, -, hd, -, rfl⟩ | ⟨rest, -, rfl⟩
  · exact h.of_markedFrom hm
  · exact (h.accepted _ rest).ruleOf hf hr (words_encode_of_decode hd).2
  · exact (h.accepted _ rest).readStepState hr

end Sys2Proof.Machine
end

section
/-! R25's invariants in the spec's words: the check finds the first that fails, and none fails in a run from reset (R25, R36). -/

namespace Sys2Proof.Machine

variable {s t : State}

/-! ### The check and the spec's words -/

/-- The Boolean that the check tests, by number. -/
def State.invariantHolds (s : State) : Nat → Bool
  | 1 => s.inv1
  | 2 => s.inv2
  | 3 => s.inv3
  | 4 => s.inv4
  | 5 => s.inv5
  | 6 => s.inv6
  | _ => true

theorem State.invariantHolds_iff (s : State) (k : Nat) : s.invariantHolds k = true ↔ s.fifoInvariant k := by
  unfold State.invariantHolds State.fifoInvariant
  split
  · simp [State.inv1]
  · simp [State.inv2]
  · simp [State.inv3]
  · simp [State.inv4, Decidable.imp_iff_not_or]
  · simp [State.inv5, Decidable.imp_iff_not_or]
  · simp [State.inv6, State.slot, Option.isSome_iff_ne_none]
  · simp

/-- No number above 6 is that of an invariant. -/
theorem State.lt_seven_of_not_fifoInvariant {k : Nat} (h : ¬ s.fifoInvariant k) : k < 7 := by
  by_contra hk
  obtain ⟨j, rfl⟩ := Nat.exists_eq_add_of_le' (Nat.le_of_not_lt hk)
  exact h trivial

/-- The check is a search for the first invariant that fails. -/
theorem State.brokenInvariant_eq_find? (s : State) :
    s.brokenInvariant = (List.range 7).find? fun k => !s.invariantHolds k := by
  simp only [State.brokenInvariant, List.range, List.range.loop, List.find?, State.invariantHolds]
  cases s.inv1 <;> cases s.inv2 <;> cases s.inv3 <;> cases s.inv4 <;> cases s.inv5 <;> cases s.inv6 <;> rfl

theorem State.brokenInvariant_eq_none_iff_fifoInvariant (s : State) :
    s.brokenInvariant = none ↔ ∀ k, s.fifoInvariant k := by
  rw [State.brokenInvariant_eq_find?, List.find?_range_eq_none]
  simp only [Bool.not_not, State.invariantHolds_iff]
  exact ⟨fun h k => by_contra fun hk => hk (h k (State.lt_seven_of_not_fifoInvariant hk)), fun h k _ => h k⟩

theorem State.brokenInvariant_eq_some_iff_fifoInvariant (s : State) (n : Nat) :
    s.brokenInvariant = some n ↔ ¬ s.fifoInvariant n ∧ ∀ k, k < n → s.fifoInvariant k := by
  rw [State.brokenInvariant_eq_find?, List.find?_range_eq_some]
  simp only [Bool.not_not, Bool.not_eq_true', ← Bool.not_eq_true, State.invariantHolds_iff, List.mem_range]
  exact ⟨fun ⟨hn, _, h⟩ => ⟨hn, h⟩, fun ⟨hn, h⟩ => ⟨hn, State.lt_seven_of_not_fifoInvariant hn, h⟩⟩

/-- Settles O9. -/
theorem brokenInvariantIsTheLowestNumbered : Obligations.BrokenInvariantIsTheLowestNumbered :=
  fun s => ⟨s.brokenInvariant_eq_none_iff_fifoInvariant, s.brokenInvariant_eq_some_iff_fifoInvariant⟩

/-! ### Reset -/

/-- An empty FIFO with HEAD = TAIL = 0 breaks no invariant. -/
theorem State.brokenInvariant_of_empty (hN : 1 ≤ s.params.depth) (hh : s.head = 0) (ht : s.tail = 0) (hc : s.count = 0) :
    s.brokenInvariant = none :=
  State.brokenInvariant_eq_none_of (by omega) (by omega) (by simp [hh, ht, hc]) (by simp [hc])

/-- The parameters at reset are legal, whatever their free values are (R9). -/
theorem reset_params_wf : State.reset.params.wf := ⟨Nat.succ_pos _, by decide, by decide⟩

theorem reset_not_full : State.reset.isFull = false := beq_eq_false_iff_ne.2 (Nat.succ_ne_zero _).symm

/-- Settles O39. -/
theorem resetLeavesTheSpecifiedValues : Obligations.ResetLeavesTheSpecifiedValues :=
  ⟨Memory.read_nil, rfl, rfl, rfl, rfl, reset_not_full, rfl, rfl, rfl, rfl, rfl, rfl⟩

/-- Settles O40: nothing is stored, written, recorded or marked yet. -/
theorem resetMeetsTheInvariant : Obligations.ResetMeetsTheInvariant where
  params_wf := reset_params_wf
  fifo := State.brokenInvariant_of_empty reset_params_wf.1 rfl rfl rfl
  mem_wf := rfl
  mem_below := rfl
  cmem_wf := rfl
  cmem_below := rfl
  cmem_replay := rfl
  writes_admitted := rfl
  written_le := Nat.le_refl 0
  base_lt := Nat.two_pow_pos _
  irq_reg := rfl
  no_early_irq := fun _ => rfl
  acked := rfl
  one_mark := .inl rfl

/-! ### Runs -/

/-- A step that finds no broken invariant leaves none broken. -/
theorem step_keeps_fifo (hb : s.brokenInvariant = none) (h : step s = .next t) : t.brokenInvariant = none := by
  rcases step_fifoEffect h with ⟨-, rfl⟩ | ⟨a, rest, -, -, heff⟩
  · exact hb
  · exact heff.fifo hb

/-- Settles O42: the invariants hold in a state with R36's values, and every step keeps them. -/
theorem reachableStatesMeetFifoInvariants : Obligations.ReachableStatesMeetFifoInvariants := by
  intro k s t hs hp hrun
  obtain ⟨-, hh, ht, hc, -⟩ := hs
  refine t.brokenInvariant_eq_none_iff_fifoInvariant.1 ?_
  exact run_induction (P := fun u => u.brokenInvariant = none) (fun _ _ => step_keeps_fifo)
    (State.brokenInvariant_of_empty hp.1 hh ht hc) hrun

end Sys2Proof.Machine
end

section
/-! What a step can do to the flags, to IRQ_REG and to the history (R28, R31, R34). -/

namespace Sys2Proof.Machine

variable {s t : State}

/-- What a command (`some i`) or a READ step (`none`) can do to the flags, IRQ_REG and the history. -/
inductive DriverEffect (who : Option Instr) (s t : State) : Prop
  | keep (hm : t.mods = s.mods) (hi : t.irqReg = s.irqReg) (hh : t.history = s.history)
  | xlat (b : Byte) (hw : who = some (.xlat b)) (hi : t.irqReg = s.irqReg) (hh : t.history = s.history)
  | readStep (hw : who = none) (hi : t.irqReg = s.irqReg) (hh : t.history = s.history)
  | charRead (a : Nat) (c : Byte) (hw : who = none) (hi : t.irqReg = s.irqReg) (hh : t.history = s.history ++ [.memWrite a c])
  | dinit (line : Nat) (hw : who = some .dinit) (hm : t.mods = Modifiers.clear) (hi : t.irqReg = true)
      (hh : t.history = s.history ++ [.register line])
  | irq (p : Nat) (b : Byte) (hreg : s.irqReg = true) (hm : t.mods = s.mods) (hi : t.irqReg = s.irqReg)
      (hh : t.history = s.history ++ [.portRead p b, .ack])

theorem ruleOf_driverEffect (i : Instr) (s : State) : DriverEffect (some i) s (ruleOf i s) := by
  cases i with
  | finit => exact .keep rfl rfl rfl
  | push b => exact .keep (s.pushed_mods b) (s.pushed_irqReg b) (s.pushed_history b)
  | pop =>
    rcases bodyPop_cases s with ⟨-, e⟩ | ⟨-, -, e⟩ | ⟨-, v, -, e⟩ <;> rw [ruleOf, e] <;> exact .keep rfl rfl rfl
  | empty => exact .keep rfl rfl rfl
  | xlat b => exact .xlat b rfl rfl rfl
  | dinit =>
    rcases bodyDinit_cases s with ⟨-, e⟩ | ⟨-, e⟩ <;> rw [ruleOf, e]
    · exact .keep rfl rfl rfl
    · exact .dinit _ rfl rfl rfl rfl
  | irq =>
    rcases bodyIrq_cases s with ⟨-, e⟩ | ⟨hreg, e⟩ <;> rw [ruleOf, e]
    · exact .keep rfl rfl rfl
    · exact .irq s.params.dataPort s.nextPortByte hreg (by simp) (by simp) (by simp)
  | read cnt base => exact .keep rfl rfl rfl

theorem readStepState_driverEffect (s : State) : DriverEffect none s (readStepState s) := by
  rcases readStep_cases s with ⟨-, e⟩ | ⟨-, -, -, -, e⟩ | ⟨-, -, -, v, -, -, e⟩ | ⟨-, -, -, v, c, -, -, -, e⟩ |
    ⟨-, -, e⟩ <;> rw [e]
  · exact .keep rfl rfl rfl
  · exact .keep rfl rfl rfl
  · exact .readStep rfl rfl rfl
  · exact .charRead _ c rfl rfl rfl
  · exact .keep rfl rfl rfl

/-- Taking an attempt off the schedule changes nothing this effect speaks of. -/
theorem DriverEffect.of_accepted {who : Option Instr} {a : Attempt} {rest : List Attempt}
    (h : DriverEffect who (s.accepted a rest) t) : DriverEffect who s t := by
  cases h with
  | keep hm hi hh => exact .keep hm hi hh
  | xlat b hw hi hh => exact .xlat b hw hi hh
  | readStep hw hi hh => exact .readStep hw hi hh
  | charRead a c hw hi hh => exact .charRead a c hw hi hh
  | dinit line hw hm hi hh => exact .dinit line hw hm hi hh
  | irq p b hreg hm hi hh => exact .irq p b hreg hm hi hh

/-- The attempt of `who` comes next: a READ step, or a command that its own agent issues in its own words. -/
def State.NextIs (s : State) : Option Instr → Prop
  | none => ∃ rest, s.inbox = .readStep :: rest
  | some i => ∃ c b rest, s.inbox = .issue i.agent c b :: rest ∧ c.words = (encode i).words

/-- A step of the machine leaves the three alone, or has the effect of the attempt that came next. -/
theorem step_driverEffect (h : step s = .next t) :
    (t.mods = s.mods ∧ t.irqReg = s.irqReg ∧ t.history = s.history) ∨ ∃ who, s.NextIs who ∧ DriverEffect who s t := by
  rcases step_rule_cases h with ⟨ib, ag, pb, f, r, l, -, rfl⟩ | ⟨i, c, b, rest, hi, hd, -, rfl⟩ | ⟨rest, hi, rfl⟩
  · exact .inl ⟨rfl, rfl, rfl⟩
  · exact .inr ⟨some i, ⟨c, b, rest, hi, (words_encode_of_decode hd).1.symm⟩, (ruleOf_driverEffect i _).of_accepted⟩
  · exact .inr ⟨none, ⟨rest, hi⟩, (readStepState_driverEffect _).of_accepted⟩

/-! ### The modifier flags -/

/-- Settles O36. -/
theorem modifiersChangeOnlyByTranslation : Obligations.ModifiersChangeOnlyByTranslation := by
  intro s t h hne
  rcases step_driverEffect h with ⟨hm, -⟩ | ⟨who, hnext, heff⟩
  · exact absurd hm hne
  cases heff with
  | keep hm | irq _ _ _ hm => exact absurd hm hne
  | xlat b hw =>
    subst hw
    obtain ⟨c, ans, rest, hi, hwords⟩ := hnext
    exact ⟨_, rest, hi, .inr (.inl ⟨b, rfl, hwords⟩)⟩
  | dinit _ hw hm =>
    subst hw
    obtain ⟨c, ans, rest, hi, hwords⟩ := hnext
    exact ⟨_, rest, hi, .inr (.inr ⟨rfl, hwords, hm⟩)⟩
  | readStep hw | charRead _ _ hw =>
    subst hw
    obtain ⟨rest, hi⟩ := hnext
    exact ⟨_, rest, hi, .inl rfl⟩

/-! ### IRQ_REG -/

/-- A step keeps IRQ_REG, or is the Consumer's DINIT and sets it. -/
theorem step_irqReg (h : step s = .next t) : t.irqReg = s.irqReg ∨ (t.irqReg = true ∧ s.NextIs (some .dinit)) := by
  rcases step_driverEffect h with ⟨-, hi, -⟩ | ⟨who, hnext, heff⟩
  · exact .inl hi
  cases heff with
  | keep _ hi | xlat _ _ hi | readStep _ hi | charRead _ _ _ hi | irq _ _ _ _ hi => exact .inl hi
  | dinit _ hw _ hi => exact .inr ⟨hi, hw ▸ hnext⟩

/-! ### The history -/

/-- A step appends events to the history, none of them of a serviced interrupt unless the handler is registered. -/
theorem step_history (h : step s = .next t) :
    ∃ new, t.history = s.history ++ new ∧ (s.irqReg = false → ∀ e ∈ new, e.isPortRead = false ∧ e.isAck = false) := by
  rcases step_driverEffect h with ⟨-, -, hh⟩ | ⟨who, -, heff⟩
  · exact ⟨[], by simp [hh], by simp⟩
  cases heff with
  | keep _ _ hh | xlat _ _ _ hh | readStep _ _ hh => exact ⟨[], by simp [hh], by simp⟩
  | charRead a c _ _ hh => exact ⟨_, hh, by simp [Event.isPortRead, Event.isAck]⟩
  | dinit line _ _ _ hh => exact ⟨_, hh, by simp [Event.isPortRead, Event.isAck]⟩
  | irq p b hreg _ _ hh => exact ⟨_, hh, by simp [hreg]⟩

/-- Settles O38. -/
theorem historyOnlyGrows : Obligations.HistoryOnlyGrows :=
  ⟨rfl, fun _ _ h => let ⟨new, hnew, _⟩ := step_history h; ⟨new, hnew⟩⟩

/-- Settles O37: a step keeps IRQ_REG or is DINIT, and it appends interrupt events only where the handler is registered. -/
theorem irqRegIsSetByDinitAndNeverCleared : Obligations.IrqRegIsSetByDinitAndNeverCleared := by
  refine ⟨rfl, fun s t h => ⟨fun hs => ?_, fun hs ht => ?_, fun hs e he => ?_⟩⟩
  · rcases step_irqReg h with hkeep | ⟨hset, -⟩
    · exact hkeep.trans hs
    · exact hset
  · rcases step_irqReg h with hkeep | ⟨-, hdinit⟩
    · simp [hkeep, hs] at ht
    · exact hdinit
  · obtain ⟨new, hnew, hquiet⟩ := step_history h
    rw [hnew, List.drop_left] at he
    exact hquiet hs e he

end Sys2Proof.Machine
end

section
/-! The characters T gives are 7-bit codes other than 0x00 (R29, R129). -/

namespace Sys2Proof.Machine

/-- A 7-bit code other than 0x00: what the two ROMs hold for a key that has a character. -/
def SevenBit (c : Byte) : Prop := c ≠ 0 ∧ c.toNat < 128

/-- Every entry of BASE_ROM is a 7-bit code (R126). -/
theorem baseRom_lt (k : BitVec 7) : (baseRom k).toNat < 128 := by
  have h : ∀ i : Fin 128, (romAt baseRomImage i).toNat < 128 := by decide
  exact h k.toFin

/-- Every entry of SHIFT_ROM but the first is a 7-bit code other than 0x00 (R127). -/
theorem shiftRom_sevenBit {k : BitVec 7} (hk : k ≠ 0) : SevenBit (shiftRom k) := by
  have h : ∀ i : Fin 128, i ≠ 0 → romAt shiftRomImage i ≠ 0 ∧ (romAt shiftRomImage i).toNat < 128 := by decide
  exact h k.toFin fun h0 => hk (BitVec.eq_of_toFin_eq h0)

/-- A 7-bit code is kept whole as a key. -/
theorem keyOf_ne_zero {c : Byte} (h : SevenBit c) : keyOf c ≠ 0 := by
  obtain ⟨hne, hlt⟩ := h
  intro hk
  have hnat : (keyOf c).toNat = 0 := by rw [hk]; rfl
  rw [keyOf, BitVec.extractLsb'_toNat, Nat.shiftRight_zero, Nat.mod_eq_of_lt hlt] at hnat
  exact hne (BitVec.eq_of_toNat_eq hnat)

theorem capsTransform_sevenBit {c : Byte} (m : Modifiers) (h : SevenBit c) : SevenBit (capsTransform m c) := by
  unfold capsTransform
  split
  · next hletter =>
    obtain ⟨-, hlo, hhi⟩ := hletter
    have hsub : (c - 0x20).toNat = c.toNat - 0x20 := BitVec.toNat_sub_of_le (by simpa [BitVec.le_def] using by omega)
    refine ⟨fun h0 => ?_, by omega⟩
    rw [h0] at hsub
    have : (0 : Byte).toNat = 0 := rfl
    omega
  · exact h

theorem shiftTransform_sevenBit {c : Byte} (m : Modifiers) (h : SevenBit c) : SevenBit (shiftTransform m c) := by
  unfold shiftTransform
  split
  · exact shiftRom_sevenBit (keyOf_ne_zero h)
  · exact h

/-- Where T gives a character: a press of a key with an entry in BASE_ROM, the flags as they were (R123). -/
theorem translate_eq_some {sc c : Byte} {m m' : Modifiers} (h : translate sc m = (some c, m')) :
    baseRom (keyOf sc) ≠ 0 ∧ c = charOf m (baseRom (keyOf sc)) ∧ m' = m := by
  unfold translate press at h
  split at h
  · cases h
  · split_ifs at h with hl hr hc h0
    all_goals cases h
    exact ⟨h0, rfl, rfl⟩

/-- Settles O54: BASE_ROM gives a 7-bit code other than 0x00, and both transforms keep it one. -/
theorem charactersAreNonzeroSevenBit : Obligations.CharactersAreNonzeroSevenBit := by
  intro sc c m m' h
  obtain ⟨hne, rfl, rfl⟩ := translate_eq_some h
  obtain ⟨hchar, hlt⟩ := shiftTransform_sevenBit m' (capsTransform_sevenBit m' ⟨hne, baseRom_lt _⟩)
  exact ⟨hchar, hlt, rfl⟩

end Sys2Proof.Machine
end

section
/-! Outside a READ call no step reads RD_BASE, RD_REQ or RD_WRITTEN (R32, U13). -/

namespace Sys2Proof.Machine

variable {s t : State}

/-- The READ call's registers (R32). -/
structure CallRegisters where
  active  : Bool
  base    : Word
  req     : Count24
  written : Count24

/-- What the READ call's registers hold. -/
def State.call (s : State) : CallRegisters := ⟨s.rdActive, s.rdBase, s.rdReq, s.rdWritten⟩

/-- The same state with other values in the READ call's registers. -/
def State.withCall (q : CallRegisters) (s : State) : State :=
  { s with rdActive := q.active, rdBase := q.base, rdReq := q.req, rdWritten := q.written }

variable (q : CallRegisters)

@[simp] theorem State.withCall_mem : (s.withCall q).mem = s.mem := rfl
@[simp] theorem State.withCall_head : (s.withCall q).head = s.head := rfl
@[simp] theorem State.withCall_count : (s.withCall q).count = s.count := rfl
@[simp] theorem State.withCall_irqReg : (s.withCall q).irqReg = s.irqReg := rfl
@[simp] theorem State.withCall_rdActive : (s.withCall q).rdActive = q.active := rfl
@[simp] theorem State.withCall_issuer : (s.withCall q).issuer = s.issuer := rfl
@[simp] theorem State.brokenInvariant_withCall : (s.withCall q).brokenInvariant = s.brokenInvariant :=
  State.brokenInvariant_congr rfl rfl rfl rfl rfl

theorem State.pushed_withCall (s : State) (b : Byte) : (s.withCall q).pushed b = (s.pushed b).withCall q :=
  State.pushed_comm (f := State.withCall q) (fun _ => rfl) (fun _ => rfl) (fun _ _ => rfl) s b

/-! ### No rule but READ's own touches the call's registers -/

theorem bodyPop_withCall (s : State) : bodyPop (s.withCall q) = (bodyPop s).withCall q := by
  by_cases h0 : s.count = 0
  · simp only [bodyPop, State.withCall_count, h0, if_true]
    rfl
  · simp only [bodyPop, State.withCall_count, State.withCall_mem, State.withCall_head, h0, if_false]
    cases s.mem.read s.head <;> rfl

theorem bodyDinit_withCall (s : State) : bodyDinit (s.withCall q) = (bodyDinit s).withCall q := by
  cases hreg : s.irqReg <;> simp only [bodyDinit, State.withCall_irqReg, hreg] <;> rfl

theorem bodyIrq_withCall (s : State) : bodyIrq (s.withCall q) = (bodyIrq s).withCall q := by
  cases hreg : s.irqReg <;> simp only [bodyIrq, State.withCall_irqReg, hreg]
  · rfl
  · exact congrArg (fun u => (u.logged .ack).respond s.issuer (respIrq (!s.isFull) s.nextPortByte))
      (State.pushed_withCall q (s.drawn.logged (.portRead s.params.dataPort s.nextPortByte)) s.nextPortByte)

theorem ruleOf_withCall {i : Instr} (hi : ∀ cnt base, i ≠ .read cnt base) (s : State) :
    ruleOf i (s.withCall q) = (ruleOf i s).withCall q := by
  cases i with
  | finit | empty | xlat => rfl
  | push b => exact congrArg (State.respond s.issuer (respPush (!s.isFull))) (State.pushed_withCall q s b)
  | pop => exact bodyPop_withCall q s
  | dinit => exact bodyDinit_withCall q s
  | irq => exact bodyIrq_withCall q s
  | read cnt base => exact absurd rfl (hi cnt base)

/-! ### One step -/

/-- `r` comes from `s`, and `r'` the same way from `s` with `q` in the call's registers: the outcomes are equal, or the registers
were left alone and the states differ in nothing else. -/
def CallUnread (q : CallRegisters) (s : State) (r r' : Result) : Prop :=
  r' = r ∨ ∃ t, t.call = s.call ∧ r = .next t ∧ r' = .next (t.withCall q)

/-- A rule that commutes with every change of the call's registers. That it keeps them is its commuting with putting back the
values they have. -/
theorem CallUnread.of_comm {f : State → State} (hf : ∀ q s, f (s.withCall q) = (f s).withCall q) (s : State) :
    CallUnread q s (.next (f s)) (.next (f (s.withCall q))) := by
  have hkeep : (f s).call = s.call :=
    calc
      (f s).call = ((f s).withCall s.call).call := congrArg State.call (hf s.call s)
      _ = s.call := rfl
  exact .inr ⟨f s, hkeep, rfl, congrArg Host.Outcome.next (hf q s)⟩

theorem ruleOf_callUnread (i : Instr) (s : State) : CallUnread q s (.next (ruleOf i s)) (.next (ruleOf i (s.withCall q))) := by
  by_cases hread : ∃ cnt base, i = .read cnt base
  · obtain ⟨cnt, base, rfl⟩ := hread
    exact .inl rfl
  · exact .of_comm q (fun q => ruleOf_withCall q fun cnt base h => hread ⟨cnt, base, h⟩) s

variable (hq : q.active = false) (hs : s.rdActive = false)
include hq hs

theorem checked_callUnread (i : Instr) :
    CallUnread q s (.next (checked i (ruleOf i) s)) (.next (checked i (ruleOf i) (s.withCall q))) := by
  simp only [checked, State.withCall_issuer, State.withCall_rdActive, hq, hs, Bool.false_eq_true, and_false, if_false]
  split
  · exact .of_comm q (f := fun u => u.enterRefusal .wrongAgent u.issuer (encode i).words) (fun _ _ => rfl) s
  · exact ruleOf_callUnread q i s

theorem attempted_callUnread (a : Attempt) :
    CallUnread q s (.next (attempted a s)) (.next (attempted a (s.withCall q))) := by
  cases hb : s.brokenInvariant with
  | some n =>
    rw [attempted_of_broken a hb, attempted_of_broken a (by simpa using hb)]
    exact .of_comm q (f := State.enterFault (.invariant n) a.agent a.words) (fun _ _ => rfl) s
  | none =>
    cases a with
    | readStep =>
      rw [attempted_readStep hb, attempted_readStep (by simpa using hb)]
      simp only [readStepState, State.withCall_rdActive, hq, hs]
      exact .of_comm q (f := State.noStep) (fun _ _ => rfl) s
    | issue ag c b =>
      cases hd : decode s.params.addrW c with
      | error e =>
        rw [attempted_illegal ag b hb hd, attempted_illegal (s := s.withCall q) ag b (by simpa using hb) hd]
        exact .of_comm q (f := State.enterFault (.illegalCmd c.words) ag c.words) (fun _ _ => rfl) s
      | ok i =>
        rw [attempted_command ag b hb hd, attempted_command (s := s.withCall q) ag b (by simpa using hb) hd]
        exact checked_callUnread q hq hs i

theorem step_callUnread : CallUnread q s (step s) (step (s.withCall q)) := by
  rcases step_forward_cases s with ⟨m, hf⟩ | ⟨hf, m, hr⟩ | ⟨hf, hr, hi⟩ | ⟨hf, hr, a, rest, hi⟩
  · exact .inl ((step_of_fault (s := s.withCall q) hf).trans (step_of_fault hf).symm)
  · exact .inl ((step_of_refused (s := s.withCall q) hf hr).trans (step_of_refused hf hr).symm)
  · exact .inr ⟨s, rfl, step_of_idle hf hr hi, step_of_idle (s := s.withCall q) hf hr hi⟩
  · rw [step_of_attempt hf hr hi, step_of_attempt (s := s.withCall q) hf hr hi]
    exact attempted_callUnread (s := s.accepted a rest) q hq hs a

/-! ### A run -/

theorem run_callUnread (k : Nat) : CallUnread q s (run k s) (run k (s.withCall q)) := by
  induction k generalizing s with
  | zero => exact .inr ⟨s, rfl, rfl, rfl⟩
  | succ k ih =>
    rcases step_callUnread q hq hs with hsame | ⟨u, hu, hstep, hstep'⟩
    · exact .inl (by rw [run, run, hsame])
    · have hactive : u.rdActive = false := (congrArg CallRegisters.active hu).trans hs
      rw [run, run, hstep, hstep']
      simpa only [CallUnread, hu] using ih hactive

omit hq hs

/-- Settles O29: a run keeps the three registers' values apart from everything else until a READ writes them all. -/
theorem callRegistersAreNotReadOutsideACall : Obligations.CallRegistersAreNotReadOutsideACall := by
  intro k s base req written hs
  have hrun : CallUnread ⟨s.rdActive, base, req, written⟩ s (run k s)
      (run k { s with rdBase := base, rdReq := req, rdWritten := written }) := run_callUnread _ hs hs k
  rcases hrun with hsame | ⟨u, hu, hrun, hrun'⟩
  · rw [hsame]
    exact ⟨fun t h => .inl h, fun m h => h, fun m h => h⟩
  · rw [hrun, hrun']
    refine ⟨fun t h => .inr ?_, by simp, by simp⟩
    obtain rfl := Host.Outcome.next.inj h
    obtain ⟨hactive, hbase, hreq, hwritten⟩ := CallRegisters.mk.inj hu
    exact ⟨hactive.trans hs, hbase, hreq, hwritten, by rw [State.withCall, ← hactive]⟩

end Sys2Proof.Machine
end

section
/-! Where the queue lies in the storage is never observed: a simulation between states that differ only there (R26, R35). -/

namespace Sys2Proof.Machine

variable {s s' : State}

/-- The simulation: no invariant of R25 is broken, and the two states differ at most in where the queue lies and in what a FAULT
mark recorded. -/
structure State.Relocated (s' s : State) : Prop where
  same  : s'.SameButPlace s
  fifo' : s'.brokenInvariant = none
  fifo  : s.brokenInvariant = none

/-! ### What the two states have in common -/

section
variable (h : s'.Relocated s)
include h

theorem State.Relocated.queue : s'.queue = s.queue := h.same.1
theorem State.Relocated.marked : s'.fault.isSome = s.fault.isSome := h.same.2.1
theorem State.Relocated.unplaced : s'.unplaced = s.unplaced := h.same.2.2

/-- What does not read the place of the queue is equal. -/
theorem State.Relocated.observed {α : Type} (f : State → α) (hf : ∀ u, f u.unplaced = f u) : f s' = f s := by
  rw [← hf s', h.unplaced, hf]

theorem State.Relocated.count : s'.count = s.count := h.observed (fun u => u.count) fun _ => rfl
theorem State.Relocated.mods : s'.mods = s.mods := h.observed (fun u => u.mods) fun _ => rfl
theorem State.Relocated.irqReg : s'.irqReg = s.irqReg := h.observed (fun u => u.irqReg) fun _ => rfl
theorem State.Relocated.rdActive : s'.rdActive = s.rdActive := h.observed (fun u => u.rdActive) fun _ => rfl
theorem State.Relocated.rdWritten : s'.rdWritten = s.rdWritten := h.observed (fun u => u.rdWritten) fun _ => rfl
theorem State.Relocated.refused : s'.refused = s.refused := h.observed (fun u => u.refused) fun _ => rfl
theorem State.Relocated.params : s'.params = s.params := h.observed (fun u => u.params) fun _ => rfl
theorem State.Relocated.inbox : s'.inbox = s.inbox := h.observed (fun u => u.inbox) fun _ => rfl
theorem State.Relocated.issuer : s'.issuer = s.issuer := h.observed (fun u => u.issuer) fun _ => rfl
theorem State.Relocated.isEmpty : s'.isEmpty = s.isEmpty := h.observed State.isEmpty fun _ => rfl
theorem State.Relocated.isFull : s'.isFull = s.isFull := h.observed State.isFull fun _ => rfl
theorem State.Relocated.nextPortByte : s'.nextPortByte = s.nextPortByte := h.observed State.nextPortByte fun _ => rfl
theorem State.Relocated.outAddr : s'.outAddr = s.outAddr := h.observed State.outAddr fun _ => rfl
theorem State.Relocated.iterates : s'.iterates = s.iterates := h.observed State.iterates fun _ => rfl
theorem State.Relocated.completes : s'.completes = s.completes := h.observed State.completes fun _ => rfl

theorem State.Relocated.fault_eq_none (hf : s.fault = none) : s'.fault = none := by
  simpa [hf] using h.marked

/-- The oldest entry is the same byte, and so is the rest of the queue. -/
theorem State.Relocated.oldest (h0 : 0 < s.count) :
    ∃ v, s'.mem.read s'.head = some v ∧ s.mem.read s.head = some v ∧ s'.removed.queue = s.removed.queue := by
  have h0' : 0 < s'.count := h.count ▸ h0
  obtain ⟨v', hv'⟩ := State.head_written h.fifo' h0'
  obtain ⟨v, hv⟩ := State.head_written h.fifo h0
  obtain ⟨-, ⟨hhead', -⟩, -⟩ := (State.brokenInvariant_eq_none s').1 h.fifo'
  obtain ⟨-, ⟨hhead, -⟩, -⟩ := (State.brokenInvariant_eq_none s).1 h.fifo
  have hcons : v' :: s'.removed.queue = v :: s.removed.queue :=
    (State.queue_removed h0' hhead' hv').symm.trans (h.queue.trans (State.queue_removed h0 hhead hv))
  obtain ⟨rfl, hrest⟩ := List.cons.inj hcons
  exact ⟨v', hv', hv, hrest⟩

/-! ### Every operation keeps the simulation -/

/-- An update that does not touch the FIFO or the FAULT mark. -/
theorem State.Relocated.map {f : State → State} (hb : ∀ u, (f u).brokenInvariant = u.brokenInvariant)
    (hq : ∀ u, (f u).queue = u.queue) (hf : ∀ u, (f u).fault = u.fault) (hu : ∀ u, (f u).unplaced = f u.unplaced) :
    (f s').Relocated (f s) where
  same := ⟨by rw [hq, hq, h.queue], by rw [hf, hf, h.marked], by rw [hu, hu, h.unplaced]⟩
  fifo' := (hb s').trans h.fifo'
  fifo := (hb s).trans h.fifo

theorem State.Relocated.respond (ag : Agent) (w : Word) : (s'.respond ag w).Relocated (s.respond ag w) :=
  h.map (fun u => u.brokenInvariant_respond ag w) (fun u => u.queue_respond ag w) (fun _ => rfl) (fun _ => rfl)

theorem State.Relocated.ranSilently : s'.ranSilently.Relocated s.ranSilently :=
  h.map State.brokenInvariant_ranSilently State.queue_ranSilently (fun _ => rfl) (fun _ => rfl)

theorem State.Relocated.noStep : s'.noStep.Relocated s.noStep :=
  h.map State.brokenInvariant_noStep State.queue_noStep (fun _ => rfl) (fun _ => rfl)

theorem State.Relocated.enterRefusal (r : RefusalReason) (ag : Agent) (ws : List Word) :
    (s'.enterRefusal r ag ws).Relocated (s.enterRefusal r ag ws) :=
  h.map (fun u => u.brokenInvariant_enterRefusal r ag ws) (fun u => u.queue_enterRefusal r ag ws) (fun _ => rfl) (fun _ => rfl)

theorem State.Relocated.withMods (m : Modifiers) : (s'.withMods m).Relocated (s.withMods m) :=
  h.map (fun u => u.brokenInvariant_withMods m) (fun u => u.queue_withMods m) (fun _ => rfl) (fun _ => rfl)

theorem State.Relocated.logged (e : Event) : (s'.logged e).Relocated (s.logged e) :=
  h.map (fun u => u.brokenInvariant_logged e) (fun u => u.queue_logged e) (fun _ => rfl) (fun _ => rfl)

theorem State.Relocated.drawn : s'.drawn.Relocated s.drawn :=
  h.map State.brokenInvariant_drawn State.queue_drawn (fun _ => rfl) (fun _ => rfl)

theorem State.Relocated.registered : s'.registered.Relocated s.registered :=
  h.map State.brokenInvariant_registered State.queue_registered (fun _ => rfl) (fun _ => rfl)

theorem State.Relocated.readBegun (cnt : Count24) (base : Word) : (s'.readBegun cnt base).Relocated (s.readBegun cnt base) :=
  h.map (fun u => u.brokenInvariant_readBegun cnt base) (fun u => u.queue_readBegun cnt base) (fun _ => rfl) (fun _ => rfl)

theorem State.Relocated.charWritten (c : Byte) : (s'.charWritten c).Relocated (s.charWritten c) :=
  h.map (fun u => u.brokenInvariant_charWritten c) (fun u => u.queue_charWritten c) (fun _ => rfl) (fun _ => rfl)

theorem State.Relocated.readEnded : s'.readEnded.Relocated s.readEnded :=
  h.map State.brokenInvariant_readEnded State.queue_readEnded (fun _ => rfl) (fun _ => rfl)

theorem State.Relocated.accepted (a : Attempt) (rest : List Attempt) : (s'.accepted a rest).Relocated (s.accepted a rest) :=
  h.map (fun u => u.brokenInvariant_accepted a rest) (fun u => u.queue_accepted a rest) (fun _ => rfl) (fun _ => rfl)

/-- A fault entry, whatever the two marks record. -/
theorem State.Relocated.enterFault (c' c : FaultCause) (ag : Agent) (ws : List Word) :
    (s'.enterFault c' ag ws).Relocated (s.enterFault c ag ws) where
  same := ⟨h.queue, rfl, congrArg (fun u : State => { u with last := some .faulted }) h.unplaced⟩
  fifo' := (State.brokenInvariant_enterFault s' c' ag ws).trans h.fifo'
  fifo := (State.brokenInvariant_enterFault s c ag ws).trans h.fifo

theorem State.Relocated.emptied : s'.emptied.Relocated s.emptied := by
  obtain ⟨-, ⟨hhead', -⟩, -⟩ := (State.brokenInvariant_eq_none s').1 h.fifo'
  obtain ⟨-, ⟨hhead, -⟩, -⟩ := (State.brokenInvariant_eq_none s).1 h.fifo
  exact
    { same := ⟨rfl, h.marked, congrArg (fun u : State => { u with count := 0 }) h.unplaced⟩
      fifo' := State.fifo_emptied (Nat.zero_lt_of_lt hhead')
      fifo := State.fifo_emptied (Nat.zero_lt_of_lt hhead) }

theorem State.Relocated.stored (b : Byte) (room : s.count ≠ s.params.depth) : (s'.stored b).Relocated (s.stored b) := by
  have room' : s'.count ≠ s'.params.depth := by rwa [h.count, h.params]
  obtain ⟨hcount', -, htail', -⟩ := (State.brokenInvariant_eq_none s').1 h.fifo'
  obtain ⟨hcount, -, htail, -⟩ := (State.brokenInvariant_eq_none s).1 h.fifo
  exact
    { same := ⟨by rw [State.queue_stored b (by omega) htail', State.queue_stored b (by omega) htail, h.queue], h.marked,
        congrArg (fun u : State => { u with count := u.count + 1 }) h.unplaced⟩
      fifo' := State.fifo_stored b h.fifo' room'
      fifo := State.fifo_stored b h.fifo room }

theorem State.Relocated.pushed (b : Byte) : (s'.pushed b).Relocated (s.pushed b) := by
  cases hfull : s.isFull with
  | true => rwa [State.pushed_of_full b hfull, State.pushed_of_full b (h.isFull.trans hfull)]
  | false =>
    rw [State.pushed_of_room b hfull, State.pushed_of_room b (h.isFull.trans hfull)]
    exact h.stored b (beq_eq_false_iff_ne.1 hfull)

theorem State.Relocated.removed (h0 : 0 < s.count) : s'.removed.Relocated s.removed := by
  obtain ⟨v, -, -, hrest⟩ := h.oldest h0
  exact
    { same := ⟨hrest, h.marked, congrArg (fun u : State => { u with count := u.count - 1 }) h.unplaced⟩
      fifo' := State.fifo_removed h.fifo' (h.count ▸ h0)
      fifo := State.fifo_removed h.fifo h0 }

/-! ### The rules, the READ step, and a step -/

theorem State.Relocated.bodyPop : (bodyPop s').Relocated (bodyPop s) := by
  by_cases h0 : s.count = 0
  · simp only [Machine.bodyPop, h.count, h0, if_true, h.issuer]
    exact h.enterFault _ _ _ _
  · obtain ⟨v, hv', hv, -⟩ := h.oldest (Nat.pos_of_ne_zero h0)
    simp only [Machine.bodyPop, h.count, h0, if_false, hv', hv, h.issuer]
    exact (h.removed (Nat.pos_of_ne_zero h0)).respond _ _

theorem State.Relocated.bodyDinit : (bodyDinit s').Relocated (bodyDinit s) := by
  rw [Machine.bodyDinit, Machine.bodyDinit, h.irqReg, h.issuer, h.params]
  split
  · exact h.enterRefusal _ _ _
  · exact (((h.emptied.withMods _).logged _).registered).respond _ _

theorem State.Relocated.bodyIrq : (bodyIrq s').Relocated (bodyIrq s) := by
  rw [Machine.bodyIrq, Machine.bodyIrq, h.irqReg, h.issuer, h.params, h.nextPortByte, h.isFull]
  split
  · exact h.noStep
  · exact (((h.drawn.logged _).pushed _).logged _).respond _ _

theorem State.Relocated.ruleOf (i : Instr) : (ruleOf i s').Relocated (ruleOf i s) := by
  cases i with
  | finit => simpa only [Machine.ruleOf, bodyFinit, h.issuer] using h.emptied.respond _ _
  | push b => simpa only [Machine.ruleOf, bodyPush, h.issuer, h.isFull] using (h.pushed b).respond _ _
  | pop => exact h.bodyPop
  | empty => simpa only [Machine.ruleOf, bodyEmpty, h.issuer, h.isEmpty] using h.respond _ _
  | xlat b => simpa only [Machine.ruleOf, bodyXlat, h.issuer, h.mods] using (h.withMods _).respond _ _
  | dinit => exact h.bodyDinit
  | irq => exact h.bodyIrq
  | read cnt base => exact (h.readBegun cnt base).ranSilently

theorem State.Relocated.checked (i : Instr) :
    (checked i (Machine.ruleOf i) s').Relocated (checked i (Machine.ruleOf i) s) := by
  simp only [Machine.checked, h.issuer, h.rdActive]
  split
  · exact h.enterRefusal _ _ _
  · split
    · exact h.enterRefusal _ _ _
    · exact h.ruleOf i

theorem State.Relocated.readIteration (h0 : 0 < s.count) : (readIteration s').Relocated (readIteration s) := by
  obtain ⟨v, hv', hv, -⟩ := h.oldest h0
  simp only [Machine.readIteration, hv', hv, h.mods, h.params, h.outAddr]
  have hpop := (h.removed h0).withMods (translate v s.mods).2
  cases (translate v s.mods).1 with
  | none => exact hpop.ranSilently
  | some c =>
    cases admits s.params s.outAddr with
    | true => exact (hpop.charWritten c).ranSilently
    | false => exact h.noStep

theorem State.Relocated.readStepState : (readStepState s').Relocated (readStepState s) := by
  simp only [Machine.readStepState, h.rdActive, h.iterates, h.completes, readCompletion, h.rdWritten]
  split
  · exact h.noStep
  · split
    · next hiter =>
      obtain ⟨-, h0⟩ := Bool.and_eq_true_iff.1 hiter
      exact h.readIteration (of_decide_eq_true h0)
    · split
      · exact h.readEnded.respond _ _
      · exact h.noStep

theorem State.Relocated.attempted (a : Attempt) : (attempted a s').Relocated (attempted a s) := by
  cases a with
  | readStep =>
    rw [attempted_readStep h.fifo', attempted_readStep h.fifo]
    exact h.readStepState
  | issue ag c b =>
    cases hd : decode s.params.addrW c with
    | error e =>
      rw [attempted_illegal ag b h.fifo' (h.params ▸ hd), attempted_illegal ag b h.fifo hd]
      exact h.enterFault _ _ _ _
    | ok i =>
      rw [attempted_command ag b h.fifo' (h.params ▸ hd), attempted_command ag b h.fifo hd]
      exact h.checked i

/-- A step of the one is matched by a step of the other. -/
theorem State.Relocated.step {t : State} (ht : step s = .next t) : ∃ t', Machine.step s' = .next t' ∧ t'.Relocated t := by
  obtain ⟨hf, hr, -⟩ := step_cases ht
  have hf' := h.fault_eq_none hf
  have hr' := h.refused.trans hr
  cases hi : s.inbox with
  | nil =>
    rw [step_of_idle hf hr hi] at ht
    obtain rfl := Host.Outcome.next.inj ht
    exact ⟨s', step_of_idle hf' hr' (h.inbox.trans hi), h⟩
  | cons a rest =>
    rw [step_of_attempt hf hr hi] at ht
    obtain rfl := Host.Outcome.next.inj ht
    exact ⟨_, step_of_attempt hf' hr' (h.inbox.trans hi), (h.accepted a rest).attempted a⟩

end

/-- Settles O49: a step of the one state is matched by a step of the other, operation by operation. -/
theorem queueDeterminesWhatIsObserved : Obligations.QueueDeterminesWhatIsObserved := by
  intro s s' t hfifo hfifo' hsame ht
  obtain ⟨t', ht', hrel⟩ := State.Relocated.step ⟨hsame, hfifo', hfifo⟩ ht
  exact ⟨t', ht', hrel.same⟩

end Sys2Proof.Machine
end

section
/-! What entered the FIFO leaves it in the same order (R60). -/

namespace Sys2Proof.Machine

variable {s t : State}

/-- The words of the two commands that empty the FIFO. -/
theorem Attempt.Clears.words {addrW : Nat} {a : Attempt} (h : a.Clears addrW) :
    a.words = (encode .finit).words ∨ a.words = (encode .dinit).words := by
  obtain ⟨ag, c, b, rfl, hd | hd⟩ := h
  · exact .inl (words_encode_of_decode hd).1.symm
  · exact .inr (words_encode_of_decode hd).1.symm

/-- The queue of a FIFO that is not empty begins with the entry at HEAD. -/
theorem State.queue_eq_cons (hb : s.brokenInvariant = none) (h0 : 0 < s.count) :
    ∃ v, s.mem.read s.head = some v ∧ s.queue = v :: s.removed.queue := by
  obtain ⟨v, hv⟩ := State.head_written hb h0
  obtain ⟨-, ⟨hhead, -⟩, -⟩ := (State.brokenInvariant_eq_none s).1 hb
  exact ⟨v, hv, State.queue_removed h0 hhead hv⟩

theorem enteredBy_of_ne (h : t.count ≠ s.count + 1) : enteredBy s t = [] := if_neg h

theorem leftBy_of_ne (h : t.count + 1 ≠ s.count) : leftBy s t = [] := if_neg h

/-- An effect that does not empty the FIFO: what entered is added behind the queue, what left is taken from its front. -/
theorem FifoEffect.flow {ag : Agent} {p : Prop} (h : FifoEffect ag p s t) (hp : ¬ p) (hb : s.brokenInvariant = none) :
    s.queue ++ enteredBy s t = leftBy s t ++ t.queue := by
  cases h with
  | keep hm hh _ hc hpar =>
    rw [enteredBy_of_ne (by omega), leftBy_of_ne (by omega), State.queue_eq_of hm hh hc hpar, List.append_nil,
      List.nil_append]
  | push b _ room hm hh _ hc hpar =>
    obtain ⟨hcount, -, htail, -⟩ := (State.brokenInvariant_eq_none s).1 hb
    have hqueue : t.queue = s.queue ++ [b] :=
      (State.queue_eq_of (s := s.stored b) hm hh hc hpar).trans (State.queue_stored b (by omega) htail)
    have hentered : enteredBy s t = [b] := by simp [enteredBy, hc, hm]
    rw [hentered, leftBy_of_ne (by omega), hqueue, List.nil_append]
  | pop _ h0 hm hh _ hc hpar =>
    obtain ⟨v, hv, hcons⟩ := State.queue_eq_cons hb h0
    have hqueue : t.queue = s.removed.queue := State.queue_eq_of (s := s.removed) hm hh hc hpar
    have hleft : leftBy s t = [v] := by simp [leftBy, show t.count + 1 = s.count by omega, hv]
    rw [enteredBy_of_ne (by omega), hleft, hqueue, hcons, List.append_nil, List.singleton_append]
  | clear _ hcl => exact absurd hcl hp

/-- The same over a step whose attempt, if there is one, is neither FINIT nor DINIT. -/
theorem step_flow (h : step s = .next t) (hb : s.brokenInvariant = none)
    (hno : ∀ a ∈ s.inbox, ¬ a.Clears s.params.addrW) : s.queue ++ enteredBy s t = leftBy s t ++ t.queue := by
  rcases step_fifoEffect h with ⟨-, rfl⟩ | ⟨a, rest, hi, -, heff⟩
  · exact FifoEffect.flow (ag := .consumer) (p := False) (.keep rfl rfl rfl rfl rfl) not_false hb
  · exact heff.flow (hno a (by simp [hi])) hb

/-- A step only takes from the schedule. -/
theorem step_inbox_subset (h : step s = .next t) : t.inbox ⊆ s.inbox := by
  rcases step_fifoEffect h with ⟨-, rfl⟩ | ⟨a, rest, hi, hrest, -⟩
  · exact List.Subset.refl _
  · rw [hi, hrest]
    exact List.subset_cons_self a rest

theorem traffic_succ {k : Nat} (h : step s = .next t) :
    traffic (k + 1) s = (enteredBy s t ++ (traffic k t).1, leftBy s t ++ (traffic k t).2) := by
  simp [traffic, h]

/-- Settles O48: each step adds behind the queue and takes from its front, by induction on the number of steps. -/
theorem bytesLeaveInTheOrderTheyEntered : Obligations.BytesLeaveInTheOrderTheyEntered := by
  intro k s t hinv hrun hno
  replace hinv := hinv.fifo
  induction k generalizing s with
  | zero =>
    obtain rfl := Host.Outcome.next.inj hrun
    exact List.append_nil s.queue
  | succ k ih =>
    obtain ⟨u, hu, hrun⟩ := run_succ hrun
    have hclears : ∀ a ∈ s.inbox, ¬ a.Clears s.params.addrW :=
      fun a ha hc => hc.words.elim (hno a ha).1 (hno a ha).2
    have hrest : u.queue ++ (traffic k u).1 = (traffic k u).2 ++ t.queue :=
      ih u hrun (fun a ha => hno a (step_inbox_subset hu ha)) (step_keeps_fifo hinv hu)
    rw [traffic_succ hu, ← List.append_assoc, step_flow hu hinv hclears, List.append_assoc, hrest, List.append_assoc]

end Sys2Proof.Machine
end

section
/-! What each agent's step leaves to the other: the Producer's commands neither read nor write what the Consumer owns (R61, R209). -/

namespace Sys2Proof.Machine

variable {s t : State} {i : Instr}

/-! ### What only the Consumer reads and writes -/

/-- HEAD, the flags, the READ call's registers and consumer memory (R61, R209). -/
structure ConsumerSide where
  head : Nat
  mods : Modifiers
  call : CallRegisters
  cmem : Memory

def State.consumerSide (s : State) : ConsumerSide := ⟨s.head, s.mods, s.call, s.cmem⟩

/-- The same state with other values in what the Consumer owns. -/
def State.withConsumerSide (q : ConsumerSide) (s : State) : State :=
  { s.withCall q.call with head := q.head, mods := q.mods, cmem := q.cmem }

section
variable (q : ConsumerSide)

@[simp] theorem State.withConsumerSide_irqReg (s : State) : (s.withConsumerSide q).irqReg = s.irqReg := rfl
@[simp] theorem State.withConsumerSide_issuer (s : State) : (s.withConsumerSide q).issuer = s.issuer := rfl

theorem State.pushed_withConsumerSide (s : State) (b : Byte) :
    (s.withConsumerSide q).pushed b = (s.pushed b).withConsumerSide q :=
  State.pushed_comm (f := State.withConsumerSide q) (fun _ => rfl) (fun _ => rfl) (fun _ _ => rfl) s b

theorem bodyPush_withConsumerSide (b : Byte) (s : State) :
    bodyPush b (s.withConsumerSide q) = (bodyPush b s).withConsumerSide q :=
  congrArg (State.respond s.issuer (respPush (!s.isFull))) (State.pushed_withConsumerSide q s b)

theorem bodyIrq_withConsumerSide (s : State) : bodyIrq (s.withConsumerSide q) = (bodyIrq s).withConsumerSide q := by
  cases hreg : s.irqReg <;> simp only [bodyIrq, State.withConsumerSide_irqReg, hreg]
  · rfl
  · exact congrArg (fun u => (u.logged .ack).respond s.issuer (respIrq (!s.isFull) s.nextPortByte))
      (State.pushed_withConsumerSide q (s.drawn.logged (.portRead s.params.dataPort s.nextPortByte)) s.nextPortByte)

theorem ruleOf_withConsumerSide (hi : i.agent = .producer) (s : State) :
    ruleOf i (s.withConsumerSide q) = (ruleOf i s).withConsumerSide q := by
  cases i with
  | push b => exact bodyPush_withConsumerSide q b s
  | irq => exact bodyIrq_withConsumerSide q s
  | finit | pop | empty | xlat | dinit | read => cases hi

/-- A Producer's command does not read what the Consumer owns, whoever issues it. -/
theorem exec_withConsumerSide (hi : i.agent = .producer) (s : State) :
    exec i (s.withConsumerSide q) = .next ((checked i (ruleOf i) s).withConsumerSide q) := by
  rw [exec_eq]
  refine congrArg Host.Outcome.next ?_
  by_cases h : s.issuer = .producer
  · rw [checked_producer _ hi h, checked_producer (s := s.withConsumerSide q) _ hi h, ruleOf_withConsumerSide q hi]
  · have hne : s.issuer ≠ i.agent := hi ▸ h
    rw [checked_of_wrongAgent _ hne, checked_of_wrongAgent (s := s.withConsumerSide q) _ hne]
    rfl

end

theorem exec_producer_withConsumerSide (hi : i.agent = .producer) (h : exec i s = .next t) (q : ConsumerSide) :
    exec i (s.withConsumerSide q) = .next (t.withConsumerSide q) := by
  rw [exec_eq] at h
  obtain rfl := Host.Outcome.next.inj h
  exact exec_withConsumerSide q hi s

/-- A Producer's command leaves what the Consumer owns: it commutes with putting back the values that are there. -/
theorem exec_producer_consumerSide (hi : i.agent = .producer) (h : exec i s = .next t) :
    t.consumerSide = s.consumerSide := by
  have hback : exec i s = .next (t.withConsumerSide s.consumerSide) :=
    exec_producer_withConsumerSide hi h s.consumerSide
  calc
    t.consumerSide = (t.withConsumerSide s.consumerSide).consumerSide :=
      congrArg State.consumerSide (Host.Outcome.next.inj (h.symm.trans hback))
    _ = s.consumerSide := rfl

/-! ### The other index -/

/-- The same state with another TAIL. -/
def State.withTail (x : Nat) (s : State) : State := { s with tail := x }

section
variable (x : Nat)

@[simp] theorem State.withTail_mem (s : State) : (s.withTail x).mem = s.mem := rfl
@[simp] theorem State.withTail_head (s : State) : (s.withTail x).head = s.head := rfl
@[simp] theorem State.withTail_count (s : State) : (s.withTail x).count = s.count := rfl
@[simp] theorem State.withTail_mods (s : State) : (s.withTail x).mods = s.mods := rfl
@[simp] theorem State.withTail_rdActive (s : State) : (s.withTail x).rdActive = s.rdActive := rfl
@[simp] theorem State.withTail_params (s : State) : (s.withTail x).params = s.params := rfl
@[simp] theorem State.withTail_issuer (s : State) : (s.withTail x).issuer = s.issuer := rfl
@[simp] theorem State.outAddr_withTail (s : State) : (s.withTail x).outAddr = s.outAddr := rfl
@[simp] theorem State.iterates_withTail (s : State) : (s.withTail x).iterates = s.iterates := rfl
@[simp] theorem State.completes_withTail (s : State) : (s.withTail x).completes = s.completes := rfl

theorem bodyPop_withTail (s : State) : bodyPop (s.withTail x) = (bodyPop s).withTail x := by
  by_cases h0 : s.count = 0
  · simp only [bodyPop, State.withTail_count, h0, if_true]
    rfl
  · simp only [bodyPop, State.withTail_count, State.withTail_mem, State.withTail_head, h0, if_false]
    cases s.mem.read s.head <;> rfl

theorem checked_pop_withTail (s : State) :
    checked .pop (ruleOf .pop) (s.withTail x) = (checked .pop (ruleOf .pop) s).withTail x := by
  simp only [checked, State.withTail_issuer, State.withTail_rdActive, apply_ite (State.withTail x), ruleOf,
    bodyPop_withTail]
  rfl

theorem readIteration_withTail (s : State) : readIteration (s.withTail x) = (readIteration s).withTail x := by
  simp only [readIteration, State.withTail_mem, State.withTail_head, State.withTail_mods, State.withTail_params,
    State.outAddr_withTail]
  cases s.mem.read s.head with
  | none => rfl
  | some v =>
    cases hc : (translate v s.mods).1 with
    | none => simp only [hc]; rfl
    | some c =>
      simp only [hc, apply_ite (State.withTail x)]
      rfl

theorem readStepState_withTail (s : State) : readStepState (s.withTail x) = (readStepState s).withTail x := by
  simp only [readStepState, State.withTail_rdActive, State.iterates_withTail, State.completes_withTail,
    readIteration_withTail, apply_ite (State.withTail x)]
  rfl

end

/-- Settles O35: the Producer's command reads nothing of the Consumer's, and a pop and a READ step commute with a change of TAIL. -/
theorem neitherAgentReadsTheOthersIndex : Obligations.NeitherAgentReadsTheOthersIndex := by
  refine fun s t x => ⟨fun i hi h => ?_, fun h => ?_, fun h => ?_⟩
  · have hother := exec_producer_withConsumerSide hi h { s.consumerSide with head := x }
    obtain ⟨-, hmods, hcall, hcmem⟩ := ConsumerSide.mk.inj (exec_producer_consumerSide hi h)
    have ht : t.withConsumerSide { s.consumerSide with head := x } = { t with head := x } := by
      simp only [State.consumerSide, ← hmods, ← hcall, ← hcmem]
      rfl
    exact ht ▸ hother
  · rw [exec_eq] at h
    obtain rfl := Host.Outcome.next.inj h
    exact (exec_eq .pop (s.withTail x)).trans (congrArg Host.Outcome.next (checked_pop_withTail x s))
  · obtain rfl := Host.Outcome.next.inj h
    exact congrArg Host.Outcome.next (readStepState_withTail x s)

/-! ### Frames -/

theorem FifoEffect.params_eq {ag : Agent} {p : Prop} (h : FifoEffect ag p s t) : t.params = s.params := by
  cases h with
  | keep _ _ _ _ hp | push _ _ _ _ _ _ _ hp | pop _ _ _ _ _ _ hp | clear _ _ _ _ _ _ hp => exact hp

/-- The Consumer never writes the storage. -/
theorem FifoEffect.mem_of_consumer {p : Prop} (h : FifoEffect .consumer p s t) : t.mem = s.mem := by
  cases h with
  | push _ hag => cases hag
  | keep hm | pop _ _ hm | clear _ _ hm => exact hm

/-- The Producer never lowers COUNT. -/
theorem FifoEffect.count_of_producer {p : Prop} (h : FifoEffect .producer p s t) :
    t.count = s.count ∨ t.count = s.count + 1 := by
  cases h with
  | keep _ _ _ hc => exact .inl hc
  | push _ _ _ _ _ _ hc => exact .inr hc
  | pop hag | clear hag => cases hag

theorem FifoEffect.head_of_producer {p : Prop} (h : FifoEffect .producer p s t) : t.head = s.head := by
  cases h with
  | keep _ hh | push _ _ _ _ hh => exact hh
  | pop hag | clear hag => cases hag

/-- The Consumer moves TAIL, and raises COUNT, only by emptying the FIFO. -/
theorem FifoEffect.indices_of_consumer {p : Prop} (h : FifoEffect .consumer p s t) :
    (t.tail = s.tail ∧ (t.count = s.count ∨ (0 < s.count ∧ t.count + 1 = s.count))) ∨
    (p ∧ t.head = 0 ∧ t.tail = 0 ∧ t.count = 0) := by
  cases h with
  | keep _ _ ht hc => exact .inl ⟨ht, .inl hc⟩
  | push _ hag => cases hag
  | pop _ h0 _ _ ht hc => exact .inl ⟨ht, .inr ⟨h0, by omega⟩⟩
  | clear _ hcl _ hh ht hc => exact .inr ⟨hcl, hh, ht, hc⟩

/-- The Producer stores at TAIL alone, and nothing unless COUNT rises. -/
theorem FifoEffect.storage_of_producer {p : Prop} (h : FifoEffect .producer p s t) :
    (∀ a, a ≠ s.tail → t.mem.read a = s.mem.read a) ∧ (t.count = s.count → t.mem = s.mem ∧ t.tail = s.tail) := by
  cases h with
  | keep hm _ ht => exact ⟨fun a _ => by rw [hm], fun _ => ⟨hm, ht⟩⟩
  | push b _ _ hm _ _ hc =>
    exact ⟨fun a ha => by rw [hm, Memory.read_write_other _ b ha], fun h => absurd (hc.symm.trans h) (Nat.succ_ne_self _)⟩
  | pop hag | clear hag => cases hag

/-- A command has its rule's effect on the FIFO, or it is refused and has none. -/
theorem exec_fifoEffect (h : exec i s = .next t) : FifoEffect i.agent (i = .finit ∨ i = .dinit) s t := by
  rcases exec_cases h with ⟨-, rfl⟩ | ⟨-, -, -, rfl⟩ | ⟨-, -, rfl⟩
  · exact .keep rfl rfl rfl rfl rfl
  · exact .keep rfl rfl rfl rfl rfl
  · exact ruleOf_fifoEffect i s

theorem ruleOf_consumer_cmem_port (hi : i.agent = .consumer) (s : State) :
    (ruleOf i s).cmem = s.cmem ∧ (ruleOf i s).portAnswer = s.portAnswer ∧ (ruleOf i s).drawIndex = s.drawIndex := by
  cases i with
  | push | irq => cases hi
  | finit | empty | xlat | read => exact ⟨rfl, rfl, rfl⟩
  | pop =>
    rcases bodyPop_cases s with ⟨-, e⟩ | ⟨-, -, e⟩ | ⟨-, v, -, e⟩ <;> rw [ruleOf, e] <;> exact ⟨rfl, rfl, rfl⟩
  | dinit => rcases bodyDinit_cases s with ⟨-, e⟩ | ⟨-, e⟩ <;> rw [ruleOf, e] <;> exact ⟨rfl, rfl, rfl⟩

/-- A Consumer's command touches neither consumer memory, which only READ steps write, nor the port. -/
theorem exec_consumer_cmem_port (hi : i.agent = .consumer) (h : exec i s = .next t) :
    t.cmem = s.cmem ∧ t.portAnswer = s.portAnswer ∧ t.drawIndex = s.drawIndex := by
  rcases exec_cases h with ⟨-, rfl⟩ | ⟨-, -, -, rfl⟩ | ⟨-, -, rfl⟩
  · exact ⟨rfl, rfl, rfl⟩
  · exact ⟨rfl, rfl, rfl⟩
  · exact ruleOf_consumer_cmem_port hi s

/-- Settles O31: the storage by the effect on the FIFO, consumer memory and the port by the rules. -/
theorem nonStoringCommandsKeepEveryByte : Obligations.NonStoringCommandsKeepEveryByte := by
  intro i s t hi h
  have heff : FifoEffect .consumer _ s t := hi ▸ exec_fifoEffect h
  obtain ⟨hcmem, hanswer, hdraw⟩ := exec_consumer_cmem_port hi h
  exact ⟨fun a => by rw [heff.mem_of_consumer], fun a => by rw [hcmem], heff.params_eq, hanswer, hdraw⟩

theorem ruleOf_producer_irqReg (hi : i.agent = .producer) (s : State) : (ruleOf i s).irqReg = s.irqReg := by
  cases i with
  | push b => exact s.pushed_irqReg b
  | irq => rcases bodyIrq_cases s with ⟨-, e⟩ | ⟨-, e⟩ <;> rw [ruleOf, e] <;> simp
  | finit | pop | empty | xlat | dinit | read => cases hi

theorem exec_producer_irqReg (hi : i.agent = .producer) (h : exec i s = .next t) : t.irqReg = s.irqReg := by
  rcases exec_cases h with ⟨-, rfl⟩ | ⟨-, -, -, rfl⟩ | ⟨-, -, rfl⟩
  · rfl
  · rfl
  · exact ruleOf_producer_irqReg hi s

/-- Settles O32: the storage and COUNT by the effect on the FIFO, the rest because the Producer neither reads nor writes it. -/
theorem producerStoresOnlyAtTail : Obligations.ProducerStoresOnlyAtTail := by
  intro i s t hi h
  have heff : FifoEffect .producer _ s t := hi ▸ exec_fifoEffect h
  obtain ⟨hbytes, hkept⟩ := heff.storage_of_producer
  obtain ⟨hhead, hmods, hcall, hcmem⟩ := ConsumerSide.mk.inj (exec_producer_consumerSide hi h)
  obtain ⟨hactive, hbase, hreq, hwritten⟩ := CallRegisters.mk.inj hcall
  exact ⟨hbytes, hkept, heff.count_of_producer, hhead, hmods, hactive, hbase, hreq, hwritten,
    exec_producer_irqReg hi h, hcmem, heff.params_eq⟩

/-! ### Ownership over a step -/

/-- What changes a flag is the Consumer's (O36). -/
theorem step_producer_mods {a : Attempt} {rest : List Attempt} (hi : s.inbox = a :: rest) (ha : a.agent = .producer)
    (h : step s = .next t) : t.mods = s.mods := by
  by_contra hne
  obtain ⟨a', rest', hi', hwho⟩ := modifiersChangeOnlyByTranslation s t h hne
  obtain ⟨rfl, rfl⟩ := List.cons.inj (hi.symm.trans hi')
  have hconsumer : a.agent = .consumer := by
    rcases hwho with rfl | ⟨_, hc, -⟩ | ⟨hc, -⟩
    · rfl
    · exact hc
    · exact hc
  exact absurd (ha.symm.trans hconsumer) (by decide)

/-- Settles O34: each agent's effect on the FIFO, and the flags by O36. -/
theorem ownershipDisciplineHolds : Obligations.OwnershipDisciplineHolds := by
  intro s t a rest hi h
  rcases step_fifoEffect h with ⟨hnil, -⟩ | ⟨a', rest', hi', -, heff⟩
  · simp [hnil] at hi
  obtain ⟨rfl, rfl⟩ := List.cons.inj (hi.symm.trans hi')
  refine ⟨fun ha => ?_, fun ha => ?_⟩
  · rw [ha] at heff
    exact ⟨heff.head_of_producer, step_producer_mods hi ha h, heff.count_of_producer⟩
  · rw [ha] at heff
    exact ⟨heff.mem_of_consumer, heff.indices_of_consumer.imp_right fun ⟨hclear, hzero⟩ => ⟨hclear.words, hzero⟩⟩

end Sys2Proof.Machine
end

section
/-! A Consumer whose next character may not be written waits for good (R52, R204, R243). -/

namespace Sys2Proof.Machine

variable {s t u : State} {v c : Byte}

/-- `t` is a state in which the Consumer still waits where it stood in `s`: what it owns is unchanged, and the queue has only grown at
its end. -/
structure State.Waits (s t : State) : Prop where
  consumerSide : t.consumerSide = s.consumerSide
  params       : t.params = s.params
  queue        : s.queue <+: t.queue

/-- The queue need not grow. -/
theorem State.Waits.of_eq (hside : t.consumerSide = s.consumerSide) (hparams : t.params = s.params)
    (hqueue : t.queue = s.queue) : s.Waits t :=
  ⟨hside, hparams, [], by rw [hqueue, List.append_nil]⟩

theorem State.Waits.refl (s : State) : s.Waits s := .of_eq rfl rfl rfl

theorem State.Waits.trans (h : s.Waits t) (h' : t.Waits u) : s.Waits u :=
  ⟨h'.consumerSide.trans h.consumerSide, h'.params.trans h.params, h.queue.trans h'.queue⟩

theorem State.waits_accepted (s : State) (a : Attempt) (rest : List Attempt) : s.Waits (s.accepted a rest) :=
  .of_eq rfl rfl rfl

/-- A step that only sets marks. -/
theorem State.MarkedFrom.waits (h : s.MarkedFrom t) : s.Waits t := by
  obtain ⟨ib, ag, pb, f, r, l, -, rfl⟩ := h
  exact .of_eq rfl rfl rfl

/-- The Producer adds to the queue at its end. -/
theorem FifoEffect.queue_of_producer {p : Prop} (h : FifoEffect .producer p s t) (hp : ¬ p)
    (hb : s.brokenInvariant = none) : s.queue <+: t.queue := by
  have hleft : leftBy s t = [] := leftBy_of_ne (by have := h.count_of_producer; omega)
  exact ⟨enteredBy s t, by rw [h.flow hp hb, hleft, List.nil_append]⟩

/-- The rule of a Producer's command leaves the Consumer waiting. -/
theorem ruleOf_producer_waits {i : Instr} (hi : i.agent = .producer) (hs : s.issuer = .producer)
    (hb : s.brokenInvariant = none) : s.Waits (ruleOf i s) := by
  have hexec : exec i s = .next (ruleOf i s) := by rw [exec_eq, checked_producer _ hi hs]
  have heff : FifoEffect .producer _ s (ruleOf i s) := hi ▸ ruleOf_fifoEffect i s
  have hno : ¬ (i = .finit ∨ i = .dinit) := by rintro (rfl | rfl) <;> cases hi
  exact ⟨exec_producer_consumerSide hi hexec, heff.params_eq, heff.queue_of_producer hno hb⟩

/-- The Consumer is inside a READ call, and its next iteration would write the character `c` of the oldest code `v` where the launch
memory admits no write. -/
structure State.Stuck (v c : Byte) (s : State) : Prop where
  fifo       : s.brokenInvariant = none
  active     : s.rdActive = true
  unfinished : s.rdWritten.toNat < s.rdReq.toNat
  oldest     : [v] <+: s.queue
  char       : (translate v s.mods).1 = some c
  unadmitted : admits s.params s.outAddr = false

/-- What is stuck stays so while it waits. -/
theorem State.Stuck.of_waits (h : s.Stuck v c) (hw : s.Waits t) (hb : t.brokenInvariant = none) : t.Stuck v c := by
  obtain ⟨hside, hparams, hqueue⟩ := hw
  obtain ⟨-, hmods, hcall, -⟩ := ConsumerSide.mk.inj hside
  obtain ⟨hactive, hbase, hreq, hwritten⟩ := CallRegisters.mk.inj hcall
  exact
    { fifo := hb
      active := hactive.trans h.active
      unfinished := by rw [hwritten, hreq]; exact h.unfinished
      oldest := h.oldest.trans hqueue
      char := hmods ▸ h.char
      unadmitted := by rw [hparams, State.outAddr, hbase, hwritten]; exact h.unadmitted }

theorem State.Stuck.head (h : s.Stuck v c) : 0 < s.count ∧ s.mem.read s.head = some v := by
  obtain ⟨rest, hrest⟩ := h.oldest
  have h0 : 0 < s.count := by
    by_contra hc
    have hnil : s.queue = [] := by simp [State.queue, Nat.eq_zero_of_not_pos hc]
    simp [hnil] at hrest
  obtain ⟨v', hv', hcons⟩ := State.queue_eq_cons h.fifo h0
  obtain ⟨rfl, -⟩ := List.cons.inj (hrest.trans hcons)
  exact ⟨h0, hv'⟩

/-- The READ step is neither an admitted iteration nor the completion: there is no step. -/
theorem State.Stuck.readStepState (h : s.Stuck v c) : readStepState s = s.noStep := by
  obtain ⟨h0, hv⟩ := h.head
  have hiter : s.iterates = true := by simp [State.iterates, h.unfinished, h0]
  simp [Machine.readStepState, h.active, hiter, readIteration, hv, h.char, h.unadmitted]

/-- No step moves a stuck Consumer: its own commands are refused, its READ step does not exist, and the Producer only adds. -/
theorem State.Stuck.step_waits (h : s.Stuck v c) (hstep : step s = .next t) : s.Waits t := by
  rcases step_rule_cases hstep with hm | ⟨i, cmd, b, rest, -, -, hidle, rfl⟩ | ⟨rest, -, rfl⟩
  · exact hm.waits
  · cases hi : i.agent with
    | consumer => exact absurd (h.active.symm.trans (hidle hi)) (by decide)
    | producer => exact (s.waits_accepted _ rest).trans (ruleOf_producer_waits hi rfl h.fifo)
  · rw [(h.of_waits (s.waits_accepted _ rest) h.fifo).readStepState]
    exact .of_eq rfl rfl rfl

theorem State.Stuck.run_waits {k : Nat} (h : s.Stuck v c) (hrun : run k s = .next t) : s.Waits t := by
  have hboth : s.Waits t ∧ t.Stuck v c := by
    refine run_induction (P := fun u => s.Waits u ∧ u.Stuck v c) (fun u w hu hstep => ?_) ⟨.refl s, h⟩ hrun
    obtain ⟨hwaits, hstuck⟩ := hu
    have hnext := hstuck.step_waits hstep
    exact ⟨hwaits.trans hnext, hstuck.of_waits hnext (step_keeps_fifo hstuck.fifo hstep)⟩
  obtain ⟨hwaits, -⟩ := hboth
  exact hwaits

/-- Settles O60: no step moves a stuck Consumer, so no run does. -/
theorem unadmittedWriteSticksTheConsumer : Obligations.UnadmittedWriteSticksTheConsumer := by
  intro k s t v c hb hactive hlt h0 hv hchar hadm hrun
  obtain ⟨v', hv', hcons⟩ := State.queue_eq_cons hb h0
  obtain rfl := Option.some.inj (hv.symm.trans hv')
  have hstuck : s.Stuck v c := ⟨hb, hactive, hlt, ⟨s.removed.queue, hcons.symm⟩, hchar, hadm⟩
  obtain ⟨hside, -, hnew⟩ := hstuck.run_waits hrun
  obtain ⟨hhead, hmods, hcall, hcmem⟩ := ConsumerSide.mk.inj hside
  obtain ⟨hopen, -, -, hwritten⟩ := CallRegisters.mk.inj hcall
  refine ⟨hopen.trans hactive, hhead, hwritten, hmods, hcmem, hnew.imp fun _ => Eq.symm, fun hended => ?_⟩
  obtain ⟨-, -, hclosed, -⟩ := hended
  simp [hopen, hactive] at hclosed

end Sys2Proof.Machine
end

section
/-! A command's bytes, read back, are the command (R53, R70 to R76). -/

namespace Sys2Proof

/-- Every well-formed command decodes from its own words. -/
theorem decode_encode {addrW : Nat} {i : Instr} (h : i.wellFormed addrW = true) : decode addrW (encode i) = .ok i := by
  cases i with
  | finit | pop | empty | dinit | irq => simp [decode, encode, decodeZ]
  | push | xlat => simp [decode, encode, decodeB]
  | read cnt base =>
    have hbase : base.toNat < 2 ^ addrW := of_decide_eq_true h
    simp [decode, encode, decodeR, opRead, hbase]

@[simp] theorem w1_encodeZ (op : BitVec 8) : (encodeZ op).w1 = none := rfl
@[simp] theorem w1_encodeB (op : BitVec 8) (b : Byte) : (encodeB op b).w1 = none := rfl

/-- A command has its extension word exactly when it is a READ (R71). -/
theorem encode_w1_isSome (i : Instr) : (encode i).w1.isSome = true ↔ opOf (encode i).w0 = opRead := by
  cases i with
  | finit | push | pop | empty | xlat | dinit | irq => simp [encode, opRead]
  | read => simp [encode]

/-- The bytes of a command that has its extension word exactly when OP asks for one. -/
theorem takeCommand_words {c : Command} (h : c.w1.isSome = true ↔ opOf c.w0 = opRead) (rest : List Byte) :
    takeCommand (c.words.flatMap bytesOfWord ++ rest) = some (c, rest) := by
  obtain ⟨w0, w1⟩ := c
  cases w1 with
  | none =>
    have hop : opOf w0 ≠ opRead := by simpa using h
    simp [takeCommand, Command.words, hop]
  | some base =>
    have hop : opOf w0 = opRead := by simpa using h
    simp [takeCommand, Command.words, hop]

theorem takeCommand_encodeBytes (i : Instr) (rest : List Byte) :
    takeCommand (encodeBytes i ++ rest) = some (encode i, rest) := takeCommand_words (encode_w1_isSome i) rest

theorem length_words_encode (i : Instr) : (encode i).words.length = wordCount (encode i).w0 := by
  have h := encode_w1_isSome i
  unfold Command.words wordCount
  split
  · next hop =>
    obtain ⟨w1, hw1⟩ := Option.isSome_iff_exists.1 (h.2 hop)
    simp [hw1]
  · rfl

theorem length_encodeBytes (i : Instr) : (encodeBytes i).length = 4 * wordCount (encode i).w0 := by
  rw [← length_words_encode, encodeBytes, List.length_flatMap]
  simp [bytesOfWord, Nat.mul_comm]

/-- Settles O4: the bytes are taken off as the command's words, which decode to it. -/
theorem byteStreamDecodesToTheCommand : Obligations.ByteStreamDecodesToTheCommand := by
  intro addrW i rest h
  refine ⟨?_, length_encodeBytes i⟩
  simp [decodeBytes, takeCommand_encodeBytes, decode_encode h]

end Sys2Proof
end

section
/-! The encoding: the examples, both directions, the illegal words and the match and mask table (R71 to R81). -/

namespace Sys2Proof

open Laws

/-- Settles O2: format by format, the encoder's fields read back. -/
theorem decodeOfEncodeIsIdentity : Obligations.DecodeOfEncodeIsIdentity := fun _ _ => decode_encode

/-- Settles O3: the decoder's checks leave no bit of the words undetermined. -/
theorem encodeOfDecodeIsIdentity : Obligations.EncodeOfDecodeIsIdentity := fun _ _ _ => words_encode_of_decode

/-! ### The illegal words -/

/-- Format Z's ZERO field as a number: R77's third case. -/
theorem low24_eq_zero_iff (w : Word) : low24 w = 0 ↔ w.toNat % 2 ^ 24 = 0 := by
  simp [low24, ← BitVec.toNat_inj]

/-- Format B's ZERO field as a number: R77's fourth case. -/
theorem mid16_eq_zero_iff (w : Word) : mid16 w = 0 ↔ w.toNat / 2 ^ 8 % 2 ^ 16 = 0 := by
  simp [mid16, ← BitVec.toNat_inj, Nat.shiftRight_eq_div_pow]

theorem decodeZ_error_iff (i : Instr) (w : Word) : (∃ e, decodeZ i w = .error e) ↔ w.toNat % 2 ^ 24 ≠ 0 := by
  rw [ne_eq, ← low24_eq_zero_iff, decodeZ]
  split <;> simp_all

theorem decodeB_error_iff (mk : Byte → Instr) (w : Word) :
    (∃ e, decodeB mk w = .error e) ↔ w.toNat / 2 ^ 8 % 2 ^ 16 ≠ 0 := by
  rw [ne_eq, ← mid16_eq_zero_iff, decodeB]
  split <;> simp_all

theorem decodeR_error_iff (addrW : Nat) (w : Word) {w1 : Option Word} (h : w1 ≠ none) :
    (∃ e, decodeR addrW w w1 = .error e) ↔ ∃ base, w1 = some base ∧ base.toNat / 2 ^ addrW ≠ 0 := by
  obtain ⟨base, rfl⟩ := Option.ne_none_iff_exists'.1 h
  by_cases hb : base.toNat < 2 ^ addrW <;> simp [decodeR, hb, Nat.div_eq_zero_iff, Nat.not_lt.1]

/-- Settles O5: OP by OP, the format's own check. -/
theorem illegalEncodingsAreTheFiveCases : Obligations.IllegalEncodingsAreTheFiveCases := by
  intro addrW c hext
  simp only [← BitVec.toNat_inj] at hext ⊢
  unfold decode
  split
  case h_2 op | h_5 op => simp [op, decodeB_error_iff]
  case h_8 op => simp [op, decodeR_error_iff addrW c.w0 (hext op)]
  case h_9 =>
    have hop : (opOf c.w0).toNat = 0 ∨ 9 ≤ (opOf c.w0).toNat := by grind
    exact iff_of_true ⟨_, rfl⟩ (hop.imp id .inl)
  all_goals
    next op => simp [op, decodeZ_error_iff]

/-! ### The match and mask table -/

/-- Every command's encoding lies in the command's own row. -/
theorem encodedRow (i : Instr) : EncodedRow.Statement i := by
  cases i with
  | finit => exact EncodedRow.finit
  | push b => exact EncodedRow.push b
  | pop => exact EncodedRow.pop
  | empty => exact EncodedRow.empty
  | xlat b => exact EncodedRow.xlat b
  | dinit => exact EncodedRow.dinit
  | irq => exact EncodedRow.irq
  | read cnt base => exact EncodedRow.read cnt base

theorem head_words (c : Command) : c.words.head? = some c.w0 := by
  unfold Command.words
  split <;> rfl

/-- A command that decodes has the first word of the decoded command's encoding. -/
theorem w0_encode_of_decode {addrW : Nat} {c : Command} {i : Instr} (h : decode addrW c = .ok i) : (encode i).w0 = c.w0 := by
  have hwords : (encode i).words = c.words := (words_encode_of_decode h).1
  simpa [head_words] using congrArg List.head? hwords

/-- Every row's mask keeps OP whole, so a word of the row has the row's OP. -/
theorem opOf_of_row {w : Word} {r : OpRow} (hr : r ∈ opTable) (h : w &&& r.mask = r.pattern) : opOf w = opOf r.pattern := by
  have hmask : opOf r.mask = BitVec.allOnes 8 := (by decide : ∀ r ∈ opTable, opOf r.mask = BitVec.allOnes 8) r hr
  calc
    opOf w = opOf w &&& opOf r.mask := by rw [hmask, BitVec.and_allOnes]
    _ = opOf r.pattern := by rw [← h]; exact BitVec.extractLsb'_and.symm

/-- A Format Z row's mask keeps the whole word. -/
theorem decodeZ_of_row (i : Instr) {w pattern : Word} (h : w &&& 0xFFFFFFFF = pattern) (hp : low24 pattern = 0) :
    decodeZ i w = .ok i := by
  have hw : w = pattern := BitVec.and_allOnes.symm.trans h
  rw [decodeZ, hw, if_pos hp]

/-- A Format B row's mask keeps bits 23:8. -/
theorem decodeB_of_row (mk : Byte → Instr) {w pattern : Word} (h : w &&& 0xFFFFFF00 = pattern) (hp : mid16 pattern = 0) :
    decodeB mk w = .ok (mk (low8 w)) := by
  have hz : mid16 w = mid16 pattern := by
    calc
      mid16 w = mid16 w &&& mid16 0xFFFFFF00 := BitVec.and_allOnes.symm
      _ = mid16 pattern := by rw [← h]; exact BitVec.extractLsb'_and.symm
  rw [decodeB, hz, if_pos hp]

/-- Every base is an address of 32 bits. -/
theorem decodeR_32 (w base : Word) : decodeR 32 w (some base) = .ok (.read (low24 w) base) := if_pos base.isLt

/-- The eight rows have eight different OPs. -/
theorem row_eq_of_opOf_eq : ∀ r ∈ opTable, ∀ q ∈ opTable, opOf r.pattern = opOf q.pattern → r = q := by decide

/-- A word of a row decodes to a command of that row: OP chooses the format, whose own check the mask makes. -/
theorem decode_of_row {w0 : Word} {w1 : Option Word} {r : OpRow} (hr : r ∈ opTable) (h : w0 &&& r.mask = r.pattern)
    (hext : opOf w0 = 0x08 → w1 ≠ none) : ∃ i, decode 32 ⟨w0, w1⟩ = .ok i ∧ i.row = r := by
  have hop : opOf w0 = opOf r.pattern := opOf_of_row hr h
  simp only [decode, hop]
  simp only [opTable, List.mem_cons, List.not_mem_nil, or_false] at hr
  rcases hr with rfl | rfl | rfl | rfl | rfl | rfl | rfl | rfl
  · exact ⟨.finit, decodeZ_of_row _ h rfl, rfl⟩
  · exact ⟨.push (low8 w0), decodeB_of_row _ h rfl, rfl⟩
  · exact ⟨.pop, decodeZ_of_row _ h rfl, rfl⟩
  · exact ⟨.empty, decodeZ_of_row _ h rfl, rfl⟩
  · exact ⟨.xlat (low8 w0), decodeB_of_row _ h rfl, rfl⟩
  · exact ⟨.dinit, decodeZ_of_row _ h rfl, rfl⟩
  · exact ⟨.irq, decodeZ_of_row _ h rfl, rfl⟩
  · obtain ⟨base, rfl⟩ := Option.ne_none_iff_exists'.1 (hext hop)
    exact ⟨.read (low24 w0) base, decodeR_32 w0 base, rfl⟩

/-- Settles O6: a decoded command's first word is its encoding's, and a row fixes OP, which tells the rows apart. -/
theorem decoderFollowsMatchMaskTable : Obligations.DecoderFollowsMatchMaskTable := by
  refine ⟨fun w0 w1 i hd => ?_, fun w0 w1 r => decode_of_row, fun w0 r q hr hq hwr hwq => ?_⟩
  · obtain ⟨hcovers, hmem⟩ := encodedRow i
    have hw0 : (encode i).w0 = w0 := w0_encode_of_decode hd
    exact ⟨hmem, hw0 ▸ beq_iff_eq.1 hcovers⟩
  · exact row_eq_of_opOf_eq r hr q hq ((opOf_of_row hr hwr).symm.trans (opOf_of_row hq hwq))

/-! ### The examples of R81 -/

/-- Settles O1: the legal words are encodings of well-formed commands, so O2's lemma decodes them; each illegal word has its error. -/
theorem specEncodingExamples : Obligations.SpecEncodingExamples := by
  have hlegal : ∀ i : Instr, i.wellFormed 32 = true → decode 32 (encode i) = .ok i := fun _ => decode_encode
  have hillegal : ∀ w ∈ [(0x00000000 : Word), 0x09000000, 0x03000001, 0x02000100],
      ∃ e, decode 32 ⟨w, none⟩ = .error e := by
    simp only [List.forall_mem_cons]
    exact ⟨⟨.unassignedOpcode, rfl⟩, ⟨.unassignedOpcode, rfl⟩, ⟨.nonzeroField, rfl⟩, ⟨.nonzeroField, rfl⟩, nofun⟩
  refine ⟨rfl, rfl, rfl, rfl, rfl, rfl, rfl, rfl, rfl, hlegal .finit rfl, hlegal (.push 0x1E) rfl, hlegal .pop rfl,
    hlegal .empty rfl, hlegal (.xlat 0xBA) rfl, hlegal .dinit rfl, hlegal .irq rfl, hlegal (.read 16 0x1000) rfl,
    hlegal (.read 0 0) rfl, fun w hw i hd => ?_, rfl⟩
  obtain ⟨e, he⟩ := hillegal w hw
  cases hd.symm.trans he

end Sys2Proof
end

section
/-! An illegal command's step, and the READ step as the iteration or the completion (R77, R162 to R164). -/

namespace Sys2Proof.Machine

variable {s : State}

/-- Settles O8: check 3 of R207 comes before the agent and the READ call are looked at. -/
theorem illegalCommandFaults : Obligations.IllegalCommandFaults := by
  intro s ag c b rest e hf hr hb hi hd
  rw [step_of_attempt hf hr hi, attempted_illegal (s := s.accepted _ rest) ag b (by simpa using hb) hd]
  rfl

/-! ### Which READ step is taken -/

theorem State.iterates_iff (s : State) : s.iterates = true ↔ s.rdWritten.toNat < s.rdReq.toNat ∧ 0 < s.count := by
  simp [State.iterates]

theorem State.completes_iff (s : State) : s.completes = true ↔ s.rdWritten = s.rdReq ∨ s.count = 0 := by
  simp [State.completes]

/-- Within the request the two conditions exclude each other and one of them holds. -/
theorem State.completes_eq_not_iterates (hreq : s.rdWritten.toNat ≤ s.rdReq.toNat) : s.completes = !s.iterates := by
  rw [Bool.eq_not_iff, ne_eq, Bool.eq_iff_iff, s.completes_iff, s.iterates_iff, BitVec.toNat_eq]
  omega

theorem readStepState_idle (h : s.rdActive = false) : readStepState s = s.noStep := by simp [readStepState, h]

theorem readStepState_iteration (h : s.rdActive = true) (hi : s.iterates = true) : readStepState s = readIteration s := by
  simp [readStepState, h, hi]

theorem readStepState_completion (h : s.rdActive = true) (hi : s.iterates = false) (hc : s.completes = true) :
    readStepState s = readCompletion s := by
  simp [readStepState, h, hi, hc]

/-- The READ step does not exist exactly where an iteration's write is not admitted (R204): every other READ step of a call within the
request notes another outcome. -/
theorem readStepState_eq_noStep_iff (h : s.rdActive = true) (hreq : s.rdWritten.toNat ≤ s.rdReq.toNat) :
    readStepState s = s.noStep ↔ s.iterates = true ∧ ∃ v c, s.mem.read s.head = some v ∧
      (translate v s.mods).1 = some c ∧ admits s.params s.outAddr = false := by
  constructor
  · intro hno
    have hlast : (readStepState s).last = some .noStep := congrArg State.last hno
    rcases readStep_cases s with ⟨hidle | ⟨hlt, h0, hstuck⟩ | ⟨hover, -⟩, -⟩ | ⟨-, -, -, -, e⟩ |
      ⟨-, -, -, v, -, -, e⟩ | ⟨-, -, -, v, c, -, -, -, e⟩ | ⟨-, -, e⟩
    · simp [h] at hidle
    · exact ⟨s.iterates_iff.2 ⟨hlt, h0⟩, hstuck⟩
    · omega
    all_goals simp [e, readCompletion] at hlast
  · rintro ⟨hi, v, c, hv, hc, hadm⟩
    simp [readStepState_iteration h hi, readIteration, hv, hc, hadm]

/-- An enabled rule of the Producer runs. -/
theorem ruleOf_producer_ran {i : Instr} (hi : i.agent = .producer) (hirq : i = .irq → s.irqReg = true) :
    (ruleOf i s).last = some .ran := by
  cases i with
  | push b => rfl
  | irq =>
    rcases bodyIrq_cases s with ⟨hreg, -⟩ | ⟨-, e⟩
    · simp [hirq rfl] at hreg
    · rw [ruleOf, e]; rfl
  | finit | pop | empty | xlat | dinit | read => cases hi

/-- A Producer's command that is enabled runs during a READ call and leaves the call's registers. -/
theorem exec_producer_ran {i : Instr} (hi : i.agent = .producer) (hs : s.issuer = .producer)
    (hirq : i = .irq → s.irqReg = true) : ∃ t, exec i s = .next t ∧ t.last = some .ran ∧ t.call = s.call := by
  have hrun : exec i s = .next (ruleOf i s) := by rw [exec_eq, checked_producer _ hi hs]
  exact ⟨_, hrun, ruleOf_producer_ran hi hirq, congrArg ConsumerSide.call (exec_producer_consumerSide hi hrun)⟩

/-- Settles O28: the two conditions exclude each other within the request, and the Producer touches no register of the call. -/
theorem readStepIsTheIterationOrTheCompletion : Obligations.ReadStepIsTheIterationOrTheCompletion := by
  intro s
  refine ⟨fun hidle => congrArg Host.Outcome.next (readStepState_idle hidle), fun h hreq => ?_⟩
  have hnot : s.completes = !s.iterates := State.completes_eq_not_iterates hreq
  refine ⟨hnot, s.iterates_iff, s.completes_iff, fun hi => congrArg Host.Outcome.next (readStepState_iteration h hi),
    fun hc => congrArg Host.Outcome.next (readStepState_completion h (by simpa [hc] using hnot) hc),
    (iff_of_eq (Host.Outcome.next.injEq ..)).trans (readStepState_eq_noStep_iff h hreq), fun i hi hs hirq => ?_⟩
  obtain ⟨t, ht, hran, hcall⟩ := exec_producer_ran hi hs hirq
  obtain ⟨hactive, hbase, hreq, hwritten⟩ := CallRegisters.mk.inj hcall
  exact ⟨t, ht, hran, hactive.trans h, hbase, hreq, hwritten⟩

end Sys2Proof.Machine
end

section
/-! What each FIFO command answers, case by case (40_fifo.md R101 to R104), and what it leaves alone (R100). -/

namespace Sys2Proof.Machine

variable {s t : State}

/-! ### The commands one by one -/

theorem exec_finit (hs : s.issuer = .consumer) (hidle : s.rdActive = false) :
    exec .finit s = .next (s.emptied.respond .consumer 0) := by
  rw [exec_eq, checked_consumer _ rfl hs hidle, ruleOf, bodyFinit, hs]
  rfl

theorem exec_push_of_room (b : Byte) (hs : s.issuer = .producer) (hroom : s.count ≠ s.params.depth) :
    exec (.push b) s = .next ((s.stored b).respond .producer 1) := by
  have hfull : s.isFull = false := beq_eq_false_iff_ne.2 hroom
  rw [exec_eq, checked_producer _ rfl hs, ruleOf, bodyPush, State.pushed_of_room b hfull, hs, hfull]
  rfl

theorem exec_push_of_full (b : Byte) (hs : s.issuer = .producer) (h : s.count = s.params.depth) :
    exec (.push b) s = .next (s.respond .producer 0) := by
  have hfull : s.isFull = true := beq_iff_eq.2 h
  rw [exec_eq, checked_producer _ rfl hs, ruleOf, bodyPush, State.pushed_of_full b hfull, hs, hfull]
  rfl

/-- POP issued by an idle Consumer is its rule. -/
theorem exec_pop (hs : s.issuer = .consumer) (hidle : s.rdActive = false) : exec .pop s = .next (bodyPop s) := by
  rw [exec_eq, checked_consumer _ rfl hs hidle, ruleOf]

theorem exec_pop_of_written {v : Byte} (hs : s.issuer = .consumer) (hidle : s.rdActive = false) (h0 : s.count ≠ 0)
    (hv : s.mem.read s.head = some v) : exec .pop s = .next (s.removed.respond .consumer (v.setWidth 32)) := by
  simp only [exec_pop hs hidle, bodyPop, if_neg h0, hv, hs]
  rfl

theorem exec_pop_of_empty (hs : s.issuer = .consumer) (hidle : s.rdActive = false) (h0 : s.count = 0) :
    exec .pop s = .next (s.enterFault (.popEmpty s.head) .consumer [0x03000000]) := by
  rw [exec_pop hs hidle, bodyPop, if_pos h0, hs]
  rfl

theorem exec_pop_of_unwritten (hs : s.issuer = .consumer) (hidle : s.rdActive = false) (h0 : s.count ≠ 0)
    (hv : s.mem.read s.head = none) : exec .pop s = .next (s.enterFault (.invariant 6) .consumer [0x03000000]) := by
  simp only [exec_pop hs hidle, bodyPop, if_neg h0, hv, hs]
  rfl

theorem exec_empty (hs : s.issuer = .consumer) (hidle : s.rdActive = false) :
    exec .empty s = .next (s.respond .consumer (if s.count = 0 then 1 else 0)) := by
  rw [exec_eq, checked_consumer _ rfl hs hidle, ruleOf, bodyEmpty, hs]
  simp only [respEmpty, State.isEmpty, bit, beq_iff_eq]

/-- Settles O17: FINIT's rule, reached because both checks pass. -/
theorem finitEmptiesTheFifo : Obligations.FinitEmptiesTheFifo :=
  fun _ => exec_finit

/-- Settles O18: PUSH with room, and PUSH on a full FIFO. -/
theorem pushAppendsOrDrops : Obligations.PushAppendsOrDrops :=
  fun _ b hs => ⟨exec_push_of_room b hs, exec_push_of_full b hs⟩

/-- Settles O19: POP on a written entry, on an empty FIFO, and on an unwritten entry. -/
theorem popReturnsTheOldestOrFaults : Obligations.PopReturnsTheOldestOrFaults :=
  fun _ hs hidle =>
    ⟨fun _ => exec_pop_of_written hs hidle, exec_pop_of_empty hs hidle, exec_pop_of_unwritten hs hidle⟩

/-- Settles O20: EMPTY reads COUNT and nothing else. -/
theorem emptyTestsCountAlone : Obligations.EmptyTestsCountAlone := by
  intro s hs hidle
  rw [exec_empty hs hidle]
  exact ⟨fun h0 => by rw [if_pos h0]; rfl, fun h0 => by rw [if_neg h0]; rfl⟩

/-! ### The frame -/

/-- `t` is `s` but for the FIFO, the marks, the responses and the model's note on the attempt. -/
def State.FifoFrame (s t : State) : Prop :=
  ∃ m h tl c f r rs l, t =
    { s with mem := m, head := h, tail := tl, count := c, fault := f, refused := r, responses := rs, last := l }

theorem ruleOf_fifoFrame {i : Instr} (hi : i = .finit ∨ i = .pop ∨ i = .empty ∨ ∃ b, i = .push b) (s : State) :
    s.FifoFrame (ruleOf i s) := by
  rcases hi with rfl | rfl | rfl | ⟨b, rfl⟩
  · exact ⟨_, _, _, _, _, _, _, _, rfl⟩
  · rcases bodyPop_cases s with ⟨-, e⟩ | ⟨-, -, e⟩ | ⟨-, v, -, e⟩ <;> rw [ruleOf, e] <;>
      exact ⟨_, _, _, _, _, _, _, _, rfl⟩
  · exact ⟨_, _, _, _, _, _, _, _, rfl⟩
  · rcases s.pushed_cases b with ⟨-, e⟩ | ⟨-, e⟩ <;> rw [ruleOf, bodyPush, e] <;>
      exact ⟨_, _, _, _, _, _, _, _, rfl⟩

/-- A refused FIFO command sets the mark alone, so the frame needs no condition on the issuer. -/
theorem exec_fifoFrame {i : Instr} (hi : i = .finit ∨ i = .pop ∨ i = .empty ∨ ∃ b, i = .push b)
    (h : exec i s = .next t) : s.FifoFrame t := by
  rcases exec_cases h with ⟨-, rfl⟩ | ⟨-, -, -, rfl⟩ | ⟨-, -, rfl⟩
  · exact ⟨_, _, _, _, _, _, _, _, rfl⟩
  · exact ⟨_, _, _, _, _, _, _, _, rfl⟩
  · exact ruleOf_fifoFrame hi s

/-- A command stores no byte but at TAIL, and a Consumer's command none at all. -/
theorem exec_keeps_byte {i : Instr} {a : Nat} (h : exec i s = .next t) (ha : a ≠ s.tail ∨ i.agent = .consumer) :
    t.mem.read a = s.mem.read a := by
  have heff := exec_fifoEffect h
  cases hi : i.agent with
  | consumer =>
    rw [hi] at heff
    rw [heff.mem_of_consumer]
  | producer =>
    rw [hi] at heff
    exact heff.storage_of_producer.1 a (ha.resolve_right (by simp [hi]))

/-- Settles O30: the block and its environment by the frame, the storage by the effect on the FIFO. -/
theorem fifoCommandsTouchOnlyTheFifo : Obligations.FifoCommandsTouchOnlyTheFifo := by
  intro i s t hi h
  have hbytes := fun a => exec_keeps_byte (a := a) h
  obtain ⟨m, hd, tl, c, f, r, rs, l, rfl⟩ := exec_fifoFrame hi h
  exact ⟨rfl, rfl, rfl, rfl, rfl, rfl, rfl, rfl, rfl, rfl, rfl, fun _ => rfl, hbytes⟩

end Sys2Proof.Machine
end

section
/-! The FIFO commands as list operations on the abstract queue, one by one and in sequence (R26, R106 to R108). -/

namespace Sys2Proof.Machine

variable {s t u : State} {i : Instr} {is js : List Instr} {q q' : List Byte} {rs rs' : List Response} {b v : Byte}

/-! ### Sequences of commands -/

theorem execAll_cons (h : exec i (s.issuedBy i.agent) = .next t) : execAll (i :: is) s = execAll is t := by
  simp [execAll, h]

theorem execAll_append (h : execAll is s = some t) : execAll (is ++ js) s = execAll js t := by
  induction is generalizing s with
  | nil => exact congrArg (execAll js) (Option.some.inj h)
  | cons i is ih =>
    have hexec : exec i (s.issuedBy i.agent) = .next (checked i (ruleOf i) (s.issuedBy i.agent)) := exec_eq i _
    rw [execAll_cons hexec] at h
    rw [List.cons_append, execAll_cons hexec, ih h]

/-- Under the invariants the queue has COUNT entries. -/
theorem State.length_queue (hb : s.brokenInvariant = none) : s.queue.length = s.count := by
  obtain ⟨-, -, -, -, -, hwritten⟩ := (State.brokenInvariant_eq_none s).1 hb
  exact State.queue_length hwritten

/-- The commands `is`, each issued by its own agent, lead from `s` to `t`, leave the queue `q` and answer `rs`. They leave no
invariant of R25 broken and raise no fault. -/
structure Performs (is : List Instr) (s t : State) (q : List Byte) (rs : List Response) : Prop where
  runs : execAll is s = some t
  queue : t.queue = q
  responses : t.responses = s.responses ++ rs
  fifo : t.brokenInvariant = none
  fault : t.fault = s.fault
  idle : t.rdActive = s.rdActive
  params : t.params = s.params

theorem Performs.nil (hb : s.brokenInvariant = none) : Performs [] s s s.queue [] :=
  ⟨rfl, rfl, (List.append_nil _).symm, hb, rfl, rfl, rfl⟩

theorem Performs.append (h : Performs is s t q rs) (h' : Performs js t u q' rs') :
    Performs (is ++ js) s u q' (rs ++ rs') where
  runs := (execAll_append h.runs).trans h'.runs
  queue := h'.queue
  responses := by rw [h'.responses, h.responses, List.append_assoc]
  fifo := h'.fifo
  fault := h'.fault.trans h.fault
  idle := h'.idle.trans h.idle
  params := h'.params.trans h.params

theorem Performs.count (h : Performs is s t q rs) : t.count = q.length := by
  rw [← State.length_queue h.fifo, h.queue]

/-- A command has one next state. -/
theorem Performs.of_exec (h : Performs [i] s u q rs) (ht : exec i (s.issuedBy i.agent) = .next t) :
    Performs [i] s t q rs := by
  obtain rfl : t = u := Option.some.inj ((execAll_cons ht).symm.trans h.runs)
  exact h

/-! ### The list law of each command (R106) -/

theorem performs_push (b : Byte) (hb : s.brokenInvariant = none) (hroom : s.count < s.params.depth) :
    ∃ t, Performs [.push b] s t (s.queue ++ [b]) [⟨.producer, 1⟩] := by
  obtain ⟨-, -, htail, -⟩ := (State.brokenInvariant_eq_none s).1 hb
  exact ⟨_, {
    runs := execAll_cons (exec_push_of_room (s := s.issuedBy .producer) b rfl hroom.ne)
    queue := State.queue_stored (s := s.issuedBy .producer) b hroom htail
    responses := rfl
    fifo := State.fifo_stored (s := s.issuedBy .producer) b hb hroom.ne
    fault := rfl
    idle := rfl
    params := rfl }⟩

theorem performs_push_of_full (b : Byte) (hb : s.brokenInvariant = none) (hfull : s.count = s.params.depth) :
    ∃ t, Performs [.push b] s t s.queue [⟨.producer, 0⟩] :=
  ⟨_, execAll_cons (exec_push_of_full (s := s.issuedBy .producer) b rfl hfull), rfl, rfl, hb, rfl, rfl, rfl⟩

theorem performs_pop (hb : s.brokenInvariant = none) (hidle : s.rdActive = false) (hq : s.queue = v :: q) :
    ∃ t, Performs [.pop] s t q [⟨.consumer, v.setWidth 32⟩] := by
  have hcount : 0 < s.count := by rw [← State.length_queue hb, hq]; exact Nat.succ_pos _
  obtain ⟨w, hw, hcons⟩ := State.queue_eq_cons hb hcount
  obtain ⟨rfl, rfl⟩ := List.cons.inj (hq.symm.trans hcons)
  exact ⟨_, {
    runs := execAll_cons (exec_pop_of_written (s := s.issuedBy .consumer) rfl hidle hcount.ne' hw)
    queue := rfl
    responses := rfl
    fifo := State.fifo_removed (s := s.issuedBy .consumer) hb hcount
    fault := rfl
    idle := rfl
    params := rfl }⟩

theorem performs_empty (hb : s.brokenInvariant = none) (hidle : s.rdActive = false) :
    ∃ t, Performs [.empty] s t s.queue [⟨.consumer, if s.queue = [] then 1 else 0⟩] := by
  have hempty : s.queue = [] ↔ s.count = 0 := by rw [← State.length_queue hb, List.length_eq_zero_iff]
  simp only [hempty]
  exact ⟨_, execAll_cons (exec_empty (s := s.issuedBy .consumer) rfl hidle), rfl, rfl, hb, rfl, rfl, rfl⟩

theorem performs_finit (hb : s.brokenInvariant = none) (hidle : s.rdActive = false) :
    ∃ t, Performs [.finit] s t [] [⟨.consumer, 0⟩] := by
  obtain ⟨-, ⟨hhead, -⟩, -⟩ := (State.brokenInvariant_eq_none s).1 hb
  exact ⟨_, execAll_cons (exec_finit (s := s.issuedBy .consumer) rfl hidle), rfl, rfl,
    State.fifo_emptied (s := s.issuedBy .consumer) (Nat.zero_lt_of_lt hhead), rfl, rfl, rfl⟩

/-- Settles O45: each command's list law, and the fault of a POP on the empty queue. -/
theorem queueListLaws : Obligations.QueueListLaws := by
  intro s hb hidle
  have hlen := State.length_queue hb
  refine ⟨fun b t ht => ⟨fun hroom => ?_, fun hfull => ?_⟩, fun t ht => ⟨fun b q hq => ?_, fun hq => ?_⟩,
    fun t ht => ?_, fun t ht => ?_⟩
  · obtain ⟨u, hu⟩ := performs_push b hb (hlen ▸ hroom)
    have h := hu.of_exec ht
    exact ⟨h.queue, h.responses⟩
  · obtain ⟨u, hu⟩ := performs_push_of_full b hb (hlen ▸ hfull)
    have h := hu.of_exec ht
    exact ⟨h.queue, h.responses⟩
  · obtain ⟨u, hu⟩ := performs_pop hb hidle hq
    have h := hu.of_exec ht
    exact ⟨h.queue, h.fault, h.responses⟩
  · have h0 : s.count = 0 := by rw [← hlen, hq]; rfl
    have hfault := exec_pop_of_empty (s := s.issuedBy .consumer) rfl hidle h0
    obtain rfl := Host.Outcome.next.inj (hfault.symm.trans ht)
    rfl
  · obtain ⟨u, hu⟩ := performs_empty hb hidle
    have h := hu.of_exec ht
    exact ⟨h.queue, h.responses⟩
  · obtain ⟨u, hu⟩ := performs_finit hb hidle
    exact (hu.of_exec ht).queue

/-! ### Runs of pushes and of pops (R108) -/

/-- Pushes that all have room append their bytes in order. -/
theorem performs_pushes (bs : List Byte) (hb : s.brokenInvariant = none) (hroom : s.count + bs.length ≤ s.params.depth) :
    ∃ t, Performs (bs.map .push) s t (s.queue ++ bs) (List.replicate bs.length ⟨.producer, 1⟩) := by
  induction bs generalizing s with
  | nil => exact ⟨s, by simpa using Performs.nil hb⟩
  | cons b bs ih =>
    rw [List.length_cons] at hroom
    obtain ⟨t, ht⟩ := performs_push b hb (by omega)
    have hcount : t.count = s.count + 1 := by rw [ht.count, List.length_append, State.length_queue hb]; rfl
    obtain ⟨u, hu⟩ := ih ht.fifo (by rw [hcount, ht.params]; omega)
    rw [ht.queue, List.append_assoc] at hu
    exact ⟨u, ht.append hu⟩

/-- As many pops as the queue has entries return them in order. -/
theorem performs_pops (hb : s.brokenInvariant = none) (hidle : s.rdActive = false) (hq : s.queue = q) :
    ∃ t, Performs (List.replicate q.length .pop) s t [] (q.map fun v => ⟨.consumer, v.setWidth 32⟩) := by
  induction q generalizing s with
  | nil =>
    have hnil : Performs [] s s s.queue [] := Performs.nil hb
    rw [hq] at hnil
    exact ⟨s, hnil⟩
  | cons v q ih =>
    obtain ⟨t, ht⟩ := performs_pop hb hidle hq
    obtain ⟨u, hu⟩ := ih ht.fifo (ht.idle.trans hidle) ht.queue
    exact ⟨u, ht.append hu⟩

/-- Settles O46: N pushes fill the empty FIFO, the next is dropped, and N pops return what the N stored. -/
theorem capacityPlusOneDropsTheLast : Obligations.CapacityPlusOneDropsTheLast := by
  intro s bs b hb h0 hidle hbs
  have hempty : s.queue = [] := List.length_eq_zero_iff.1 ((State.length_queue hb).trans h0)
  obtain ⟨f, hf⟩ := performs_pushes bs hb (by omega)
  rw [hempty, List.nil_append] at hf
  obtain ⟨t, ht⟩ := performs_push_of_full b hf.fifo (by rw [hf.count, hbs, hf.params])
  rw [hf.queue] at ht
  have hpushes := hf.append ht
  obtain ⟨u, hu⟩ := performs_pops ht.fifo (hpushes.idle.trans hidle) ht.queue
  refine ⟨t, u, ?_, hpushes.queue, ?_, hu.runs, hu.queue, hu.count, hu.fault.trans hpushes.fault, hu.responses⟩
  · rw [List.map_append]
    exact hpushes.runs
  · rw [hpushes.responses, List.append_assoc]

/-! ### A push and a pop in either order (R107) -/

theorem performs_push_pop (hb : s.brokenInvariant = none) (hidle : s.rdActive = false) (hroom : s.count < s.params.depth)
    (hq : s.queue ++ [b] = v :: q) :
    ∃ t, Performs [.push b, .pop] s t q [⟨.producer, 1⟩, ⟨.consumer, v.setWidth 32⟩] := by
  obtain ⟨t, ht⟩ := performs_push b hb hroom
  obtain ⟨u, hu⟩ := performs_pop ht.fifo (ht.idle.trans hidle) (ht.queue.trans hq)
  exact ⟨u, ht.append hu⟩

theorem performs_push_pop_of_full (b : Byte) (hb : s.brokenInvariant = none) (hidle : s.rdActive = false)
    (hfull : s.count = s.params.depth) (hq : s.queue = v :: q) :
    ∃ t, Performs [.push b, .pop] s t q [⟨.producer, 0⟩, ⟨.consumer, v.setWidth 32⟩] := by
  obtain ⟨t, ht⟩ := performs_push_of_full b hb hfull
  obtain ⟨u, hu⟩ := performs_pop ht.fifo (ht.idle.trans hidle) (ht.queue.trans hq)
  exact ⟨u, ht.append hu⟩

/-- After a pop there is room, whether or not the FIFO was full. -/
theorem performs_pop_push (b : Byte) (hb : s.brokenInvariant = none) (hidle : s.rdActive = false)
    (hq : s.queue = v :: q) :
    ∃ t, Performs [.pop, .push b] s t (q ++ [b]) [⟨.consumer, v.setWidth 32⟩, ⟨.producer, 1⟩] := by
  obtain ⟨hle, -⟩ := (State.brokenInvariant_eq_none s).1 hb
  rw [← State.length_queue hb, hq, List.length_cons] at hle
  obtain ⟨t, ht⟩ := performs_pop hb hidle hq
  obtain ⟨u, hu⟩ := performs_push b ht.fifo (by rw [ht.count, ht.params]; exact hle)
  rw [ht.queue] at hu
  exact ⟨u, ht.append hu⟩

/-- Settles O47: the two orders compose the list laws of PUSH and POP, and COUNT decides which law of each applies. -/
theorem pushAndPopInEitherOrder : Obligations.PushAndPopInEitherOrder := by
  intro s b hb hidle hfault
  obtain ⟨-, ⟨hhead, -⟩, -⟩ := (State.brokenInvariant_eq_none s).1 hb
  have hlen : s.queue.length = s.count := State.length_queue hb
  refine ⟨fun h0 => ⟨?_, _, exec_pop_of_empty (s := s.issuedBy .consumer) rfl hidle h0, rfl⟩,
    fun h0 hroom => ?_, fun hfull => ?_⟩
  · have hempty : s.queue = [] := List.length_eq_zero_iff.1 (hlen.trans h0)
    obtain ⟨t, ht⟩ := performs_push_pop (b := b) (v := b) (q := []) hb hidle (by omega) (by rw [hempty]; rfl)
    exact ⟨t, ht.runs, ht.count, ht.fault.trans hfault, ht.responses⟩
  · obtain ⟨v, -, hq⟩ := State.queue_eq_cons hb h0
    have hcount : (s.removed.queue ++ [b]).length = s.count := by rw [← hlen, hq, List.length_append]; rfl
    obtain ⟨t, ht⟩ := performs_push_pop (b := b) hb hidle hroom (congrArg (· ++ [b]) hq)
    obtain ⟨u, hu⟩ := performs_pop_push b hb hidle hq
    exact ⟨v, s.removed.queue, hq, ⟨t, ht.runs, ht.queue, ht.count.trans hcount, ht.responses⟩,
      ⟨u, hu.runs, hu.queue, hu.count.trans hcount, hu.responses⟩⟩
  · obtain ⟨v, -, hq⟩ := State.queue_eq_cons hb (by omega)
    have hcount : s.removed.queue.length + 1 = s.params.depth := by rw [← hfull, ← hlen, hq, List.length_cons]
    obtain ⟨t, ht⟩ := performs_push_pop_of_full b hb hidle hfull hq
    obtain ⟨u, hu⟩ := performs_pop_push b hb hidle hq
    exact ⟨v, s.removed.queue, hq, ⟨t, ht.runs, ht.queue, by rw [ht.count, hcount], ht.responses⟩,
      ⟨u, hu.runs, hu.queue, by rw [hu.count, List.length_append]; exact hcount, hu.responses⟩⟩

end Sys2Proof.Machine
end

section
/-! The translator (41_translator.md): what T answers, what it does to the flags, R128's one piece, and T's laws. -/

namespace Sys2Proof.Machine

variable {sc c : Byte} {m : Modifiers}

/-! ### A scan code is its break bit and its key number -/

theorem keyOf_toNat (sc : Byte) : (keyOf sc).toNat = sc.toNat % 128 := by
  rw [keyOf, BitVec.extractLsb'_toNat, Nat.shiftRight_zero]

theorem isBreak_iff (sc : Byte) : isBreak sc = true ↔ 128 ≤ sc.toNat := by
  rw [isBreak, ← BitVec.msb_eq_getLsbD_last (w := 8), BitVec.msb_eq_decide, decide_eq_true_iff]

theorem isBreak_eq_false_iff (sc : Byte) : isBreak sc = false ↔ sc.toNat < 128 := by
  rw [← Bool.not_eq_true, isBreak_iff, Nat.not_le]

theorem eq_iff_isBreak_keyOf (sc d : Byte) : sc = d ↔ isBreak sc = isBreak d ∧ keyOf sc = keyOf d := by
  refine ⟨fun h => h ▸ ⟨rfl, rfl⟩, fun ⟨hbreak, hkey⟩ => BitVec.eq_of_toNat_eq ?_⟩
  have hhigh : 128 ≤ sc.toNat ↔ 128 ≤ d.toNat := by rw [← isBreak_iff, ← isBreak_iff, hbreak]
  have hlow : sc.toNat % 128 = d.toNat % 128 := by rw [← keyOf_toNat, ← keyOf_toNat, hkey]
  omega

/-- Of the codes with the same break bit, no two have the same key number. -/
theorem keyOf_ne_of_ne {d : Byte} (hne : sc ≠ d) (hb : isBreak sc = isBreak d) : keyOf sc ≠ keyOf d :=
  fun hk => hne ((eq_iff_isBreak_keyOf sc d).2 ⟨hb, hk⟩)

/-- The break code of a key has the key's number (R17). -/
@[simp] theorem keyOf_or_break (sc : Byte) : keyOf (sc ||| 0x80) = keyOf sc := by
  rw [keyOf, BitVec.extractLsb'_or]
  exact BitVec.or_zero

@[simp] theorem isBreak_or_break (sc : Byte) : isBreak (sc ||| 0x80) = true := by
  rw [isBreak, BitVec.getLsbD_or]
  exact Bool.or_true _

/-- A key has two codes, its make code and its break code (R17). -/
theorem keyOf_eq_keyOf_iff {make : Byte} (hmake : isBreak make = false) (sc : Byte) :
    keyOf sc = keyOf make ↔ sc = make ∨ sc = make ||| 0x80 := by
  rw [eq_iff_isBreak_keyOf sc make, eq_iff_isBreak_keyOf sc (make ||| 0x80), keyOf_or_break, isBreak_or_break, hmake]
  cases isBreak sc <;> simp

/-! The codes of the three modifier keys (R125). -/

theorem keyOf_eq_kLshift_iff (sc : Byte) : keyOf sc = kLshift ↔ sc = 0x2A ∨ sc = 0xAA :=
  keyOf_eq_keyOf_iff (make := 0x2A) rfl sc

theorem keyOf_eq_kRshift_iff (sc : Byte) : keyOf sc = kRshift ↔ sc = 0x36 ∨ sc = 0xB6 :=
  keyOf_eq_keyOf_iff (make := 0x36) rfl sc

theorem isBreak_and_kCaps_iff (sc : Byte) : isBreak sc = true ∧ keyOf sc = kCaps ↔ sc = 0xBA :=
  (eq_iff_isBreak_keyOf sc 0xBA).symm

/-- The modifier keys have no character (R126). -/
theorem not_modifier_of_mapped {k : BitVec 7} (h : baseRom k ≠ 0) : k ≠ kLshift ∧ k ≠ kRshift ∧ k ≠ kCaps := by
  refine ⟨?_, ?_, ?_⟩ <;> exact fun hk => h (hk ▸ rfl)

/-! ### What T answers, and what it does to the flags -/

/-- A release toggles the flag of a modifier key (R122). -/
theorem release_eq (k : BitVec 7) (m : Modifiers) :
    release k m =
      ⟨m.lshift ^^ decide (k = kLshift), m.rshift ^^ decide (k = kRshift), m.caps ^^ decide (k = kCaps)⟩ := by
  unfold release
  split_ifs with hl hr hc
  · simp [hl, kLshift, kRshift, kCaps]
  · simp [hr, kLshift, kRshift, kCaps]
  · simp [hc, kLshift, kRshift, kCaps]
  · simp [hl, hr, hc]

/-- A press toggles the flag of a shift key, and leaves CAPS (R123). -/
theorem press_flags (k : BitVec 7) (m : Modifiers) :
    (press k m).2 = ⟨m.lshift ^^ decide (k = kLshift), m.rshift ^^ decide (k = kRshift), m.caps⟩ := by
  unfold press
  split_ifs with hl hr hc h0
  · simp [hl, kLshift, kRshift]
  · simp [hr, kLshift, kRshift]
  all_goals simp [hl, hr]

/-- A press of a mapped key gives its character (R123). -/
theorem press_result (k : BitVec 7) (m : Modifiers) :
    (press k m).1 = if baseRom k = 0 then none else some (charOf m (baseRom k)) := by
  unfold press
  by_cases h0 : baseRom k = 0
  · rw [if_pos h0, if_pos h0]
    split_ifs <;> rfl
  · obtain ⟨hl, hr, hc⟩ := not_modifier_of_mapped h0
    rw [if_neg hl, if_neg hr, if_neg hc, if_neg h0, if_neg h0]

/-- The flags after T: each shift flag is toggled by both codes of its key, CAPS by the break code of its own. -/
theorem translate_flags (sc : Byte) (m : Modifiers) :
    (translate sc m).2 =
      ⟨m.lshift ^^ decide (keyOf sc = kLshift), m.rshift ^^ decide (keyOf sc = kRshift),
        m.caps ^^ decide (isBreak sc = true ∧ keyOf sc = kCaps)⟩ := by
  cases hb : isBreak sc <;> simp [translate, hb, release_eq, press_flags]

/-- The same by the codes of the three keys (R125). -/
theorem translate_flags_eq (sc : Byte) (m : Modifiers) :
    (translate sc m).2 =
      ⟨m.lshift ^^ (sc == 0x2A || sc == 0xAA), m.rshift ^^ (sc == 0x36 || sc == 0xB6), m.caps ^^ (sc == 0xBA)⟩ := by
  simp only [translate_flags, keyOf_eq_kLshift_iff, keyOf_eq_kRshift_iff, isBreak_and_kCaps_iff, Bool.decide_or,
    ← beq_eq_decide]

/-- A code that is neither a shift key's nor the caps-lock key's break code leaves the flags. -/
theorem translate_keeps_flags (hl : keyOf sc ≠ kLshift) (hr : keyOf sc ≠ kRshift)
    (hc : ¬(isBreak sc = true ∧ keyOf sc = kCaps)) : (translate sc m).2 = m := by
  simp [translate_flags, hl, hr, hc]

theorem translate_flags_of_mapped (h0 : baseRom (keyOf sc) ≠ 0) : (translate sc m).2 = m :=
  let ⟨hl, hr, hc⟩ := not_modifier_of_mapped h0
  translate_keeps_flags hl hr fun h => hc h.2

theorem translate_result_of_break (hb : 0x80 ≤ sc.toNat) : (translate sc m).1 = none := by
  rw [translate, if_pos ((isBreak_iff sc).2 hb)]

theorem translate_result_of_make (hb : sc.toNat < 0x80) :
    (translate sc m).1 = if baseRom (keyOf sc) = 0 then none else some (charOf m (baseRom (keyOf sc))) := by
  rw [translate, if_neg (by rw [isBreak_iff]; omega), press_result]

/-! ### R128's one piece -/

/-- The caps transform in R128's arithmetic. -/
theorem capsTransform_eq (m : Modifiers) (c : Byte) :
    capsTransform m c =
      if m.caps = true ∧ 0x61 ≤ c.toNat ∧ c.toNat ≤ 0x7A then BitVec.ofNat 8 (c.toNat - 0x20) else c := by
  have hsub (h : 0x61 ≤ c.toNat) : c - 0x20 = BitVec.ofNat 8 (c.toNat - 0x20) := by bv_omega
  unfold capsTransform
  split_ifs with h
  · exact hsub h.2.1
  · rfl

theorem capsTransform_lt (m : Modifiers) (hc : c.toNat < 128) : (capsTransform m c).toNat < 128 := by
  rw [capsTransform_eq]
  split_ifs
  · rw [BitVec.toNat_ofNat]
    omega
  · exact hc

/-- The character of a press, with the shift transform in R128's terms. -/
theorem charOf_eq (m : Modifiers) (hc : c.toNat < 128) :
    charOf m c =
      if m.lshift = true ∨ m.rshift = true then romAt shiftRomImage (capsTransform m c).toNat else capsTransform m c := by
  have hrom : shiftRom (keyOf (capsTransform m c)) = romAt shiftRomImage (capsTransform m c).toNat := by
    rw [shiftRom, keyOf_toNat, Nat.mod_eq_of_lt (capsTransform_lt m hc)]
  simp only [charOf, shiftTransform, Modifiers.shiftActive, Bool.or_eq_true, hrom]

theorem keyOf_eq_iff_toNat (sc : Byte) (k : BitVec 7) : keyOf sc = k ↔ sc.toNat % 128 = k.toNat := by
  rw [← keyOf_toNat, BitVec.toNat_inj]

/-- Settles O51: read in R128's terms, T's paths make the same tests in the same order as the one piece. -/
theorem translatorIsTheAssembledFunction : Obligations.TranslatorIsTheAssembledFunction := by
  intro sc m
  have hl : keyOf sc = kLshift ↔ sc.toNat % 128 = 0x2A := keyOf_eq_iff_toNat sc kLshift
  have hr : keyOf sc = kRshift ↔ sc.toNat % 128 = 0x36 := keyOf_eq_iff_toNat sc kRshift
  have hc : keyOf sc = kCaps ↔ sc.toNat % 128 = 0x3A := keyOf_eq_iff_toNat sc kCaps
  have hrom : baseRom (keyOf sc) = romAt baseRomImage (sc.toNat % 128) := by rw [baseRom, keyOf_toNat]
  simp only [translate, release, press, assembledT, isBreak_iff, hl, hr, hc, charOf_eq m (baseRom_lt (keyOf sc)),
    capsTransform_eq]
  simp only [hrom]
  split_ifs <;> rfl

/-! ### The ROMs and the partition of the scan codes (R126, R127, R129) -/

theorem forall_mem_range_of_fin {n : Nat} {p : Nat → Prop} (h : ∀ i : Fin n, p i) : ∀ k ∈ List.range n, p k :=
  fun k hk => h ⟨k, List.mem_range.1 hk⟩

/-- Settles O52: the two images, compared with the lists of R126 and R127 entry by entry. -/
theorem romsAreTheListedMaps : Obligations.RomsAreTheListedMaps :=
  ⟨by decide, by decide, by decide, forall_mem_range_of_fin (by decide), forall_mem_range_of_fin (by decide)⟩

/-- R129's break codes of no effect: those of every key but the three modifier keys. -/
def isPlainBreak (k : Nat) : Bool := 128 ≤ k ∧ k ∉ [0xAA, 0xB6, 0xBA]

/-- There are 128 break codes, less the three of the modifier keys. -/
theorem plainBreak_count : (List.range 256).countP isPlainBreak = 125 := by
  have hhalves : List.range 256 = List.range 128 ++ (List.range 128).map (128 + ·) :=
    List.range_add (n := 128) (m := 128)
  have hmakes : (List.range 128).countP isPlainBreak = 0 := by decide
  have hmodifiers : (List.range 128).countP (fun k => ¬isPlainBreak (128 + k)) = 3 := by decide
  have hkeys := List.length_eq_countP_add_countP (fun k => isPlainBreak (128 + k)) (l := List.range 128)
  rw [hmodifiers, List.length_range] at hkeys
  rw [hhalves, List.countP_append, List.countP_map, hmakes, Function.comp_def]
  omega

/-- Settles O53: the counts, and T's answer and flags class by class. -/
theorem scanCodePartition : Obligations.ScanCodePartition := by
  refine ⟨plainBreak_count, by decide, by decide, fun sc m => ⟨?_, ?_, ?_, ?_, ?_, ?_, ?_⟩⟩
  · rintro (rfl | rfl) <;> rfl
  · rintro (rfl | rfl) <;> rfl
  · rintro rfl
    rfl
  · intro h hl hr hc
    have hb : isBreak sc = true := (isBreak_iff sc).2 h
    exact Prod.ext (translate_result_of_break h) (translate_keeps_flags (keyOf_ne_of_ne hl hb) (keyOf_ne_of_ne hr hb)
      fun hcaps => keyOf_ne_of_ne hc hb hcaps.2)
  · rintro rfl
    rfl
  · intro h hl hr h0
    have hb : isBreak sc = false := (isBreak_eq_false_iff sc).2 h
    exact Prod.ext ((translate_result_of_make h).trans (if_pos h0)) (translate_keeps_flags (keyOf_ne_of_ne hl hb)
      (keyOf_ne_of_ne hr hb) fun hcaps => Bool.false_ne_true (hb.symm.trans hcaps.1))
  · intro h h0
    exact ⟨_, Prod.ext ((translate_result_of_make h).trans (if_neg h0)) (translate_flags_of_mapped h0)⟩

/-! ### T along a list of scan codes (R130, R131) -/

/-- The press and the release of a mapped key leave the flags. -/
theorem flagsAfter_press_release (h0 : baseRom (keyOf sc) ≠ 0) : flagsAfter [sc, sc ||| 0x80] m = m := by
  have hbreak : baseRom (keyOf (sc ||| 0x80)) ≠ 0 := by rwa [keyOf_or_break]
  rw [flagsAfter, flagsAfter, flagsAfter, translate_flags_of_mapped hbreak, translate_flags_of_mapped h0]

/-- Settles O55: an even number of toggles gives a flag back, and a character's own key toggles none. -/
theorem toggleLaws : Obligations.ToggleLaws := by
  refine ⟨?_, ?_, ?_, ?_, ?_, fun sc c m m' h => ?character, rfl, rfl, rfl, rfl⟩
  case character =>
    obtain ⟨h0, -, rfl⟩ := translate_eq_some h
    rwa [flagsAfter_press_release h0]
  all_goals
    intro m
    simp [flagsAfter, translate_flags_eq]

/-- A flag that each code of a set toggles, and no other code, follows the parity of the set's codes. -/
theorem flag_flagsAfter {flag : Modifiers → Bool} {p : Byte → Bool}
    (h : ∀ sc m, flag (translate sc m).2 = (flag m ^^ p sc)) (scs : List Byte) (m : Modifiers) :
    flag (flagsAfter scs m) = (flag m ^^ decide (scs.countP p % 2 = 1)) := by
  induction scs generalizing m with
  | nil => simp [flagsAfter]
  | cons sc scs ih =>
    have hparity : decide ((scs.countP p + 1) % 2 = 1) = !decide (scs.countP p % 2 = 1) := by
      rw [← decide_not, decide_eq_decide]
      omega
    rw [flagsAfter, ih, h, Bool.xor_assoc, List.countP_cons]
    cases p sc
    · simp
    · simp [hparity]

/-- Settles O56: each flag follows the parity of the codes that toggle it. -/
theorem flagsFollowParity : Obligations.FlagsFollowParity := fun scs m =>
  ⟨flag_flagsAfter (flag := Modifiers.lshift) (fun sc m => by rw [translate_flags_eq]) scs m,
    flag_flagsAfter (flag := Modifiers.rshift) (fun sc m => by rw [translate_flags_eq]) scs m,
    flag_flagsAfter (flag := Modifiers.caps) (fun sc m => by rw [translate_flags_eq]) scs m⟩

/-! ### XLAT (R121) -/

variable {s : State}

/-- XLAT issued by an idle Consumer is its rule. -/
theorem exec_xlat (b : Byte) (hs : s.issuer = .consumer) (hidle : s.rdActive = false) :
    exec (.xlat b) s =
      .next ((s.withMods (translate b s.mods).2).respond .consumer (respXlat (translate b s.mods).1)) := by
  rw [exec_eq, checked_consumer _ rfl hs hidle, ruleOf, bodyXlat, hs]

/-- The response's bit 8 stands above the character (R80). -/
theorem respXlat_some (c : Byte) : respXlat (some c) = BitVec.ofNat 32 (0x100 + c.toNat) := by
  refine BitVec.eq_of_toNat_eq ?_
  have hor : 0x100 + c.toNat = 0x100 ||| c.toNat := Nat.two_pow_add_eq_or_of_lt (i := 8) c.isLt 1
  have hc : c.toNat < 2 ^ 8 := c.isLt
  rw [respXlat, BitVec.toNat_or, BitVec.toNat_setWidth, BitVec.toNat_ofNat, Nat.mod_eq_of_lt (by omega),
    Nat.mod_eq_of_lt (by omega), hor]
  rfl

/-- Settles O21: XLAT's rule, with T's pair written out. -/
theorem xlatAppliesT : Obligations.XlatAppliesT := by
  intro s b hs hidle
  rw [exec_xlat b hs hidle]
  refine ⟨fun c m h => ?_, fun m h => ?_⟩
  · rw [h, respXlat_some]
    rfl
  · rw [h]
    rfl

end Sys2Proof.Machine
end

section
/-! What each driver command answers, case by case (42_driver.md R150, R155, R156, R160). -/

namespace Sys2Proof.Machine

variable {s : State}

/-! ### DINIT and READ -/

/-- DINIT issued by an idle Consumer is its rule. -/
theorem exec_dinit (hs : s.issuer = .consumer) (hidle : s.rdActive = false) : exec .dinit s = .next (bodyDinit s) := by
  rw [exec_eq, checked_consumer _ rfl hs hidle, ruleOf]

/-- Settles O22: DINIT's rule before the registration, and after it. -/
theorem dinitStartsTheDriverOnce : Obligations.DinitStartsTheDriverOnce := by
  intro s hs hidle
  rw [exec_dinit hs hidle]
  rcases bodyDinit_cases s with ⟨hreg, e⟩ | ⟨hreg, e⟩ <;> rw [e, hs]
  · exact ⟨fun h => absurd (h.symm.trans hreg) (by decide), fun _ => rfl⟩
  · exact ⟨fun _ => rfl, fun h => absurd (hreg.symm.trans h) (by decide)⟩

/-- READ issued by an idle Consumer is its rule: it opens the call and answers nothing yet. -/
theorem exec_read (cnt : Count24) (base : Word) (hs : s.issuer = .consumer) (hidle : s.rdActive = false) :
    exec (.read cnt base) s = .next (s.readBegun cnt base).ranSilently := by
  rw [exec_eq, checked_consumer _ rfl hs hidle, ruleOf, bodyRead]

/-- Settles O25. -/
theorem readBeginsTheCall : Obligations.ReadBeginsTheCall := fun _ cnt base => exec_read cnt base

/-! ### IRQ -/

/-- What one invocation of the handler leaves (R155): the push of the port's byte `b`, and beside it the two events, the port's
answer used up and the response. -/
def State.serviced (b : Byte) (s : State) : State :=
  { s.pushed b with
    history := s.history ++ [.portRead s.params.dataPort b, .ack]
    portAnswer := none
    drawIndex := s.drawIndex + 1
    responses := s.responses ++ [⟨.producer, respIrq (!s.isFull) b⟩]
    last := some .ran }

/-! The handler leaves the marks, the call, consumer memory and the schedule. -/

@[simp] theorem State.serviced_irqReg (s : State) (b : Byte) : (s.serviced b).irqReg = s.irqReg := s.pushed_irqReg b
@[simp] theorem State.serviced_rdActive (s : State) (b : Byte) : (s.serviced b).rdActive = s.rdActive := s.pushed_rdActive b
@[simp] theorem State.serviced_rdReq (s : State) (b : Byte) : (s.serviced b).rdReq = s.rdReq := s.pushed_rdReq b
@[simp] theorem State.serviced_rdWritten (s : State) (b : Byte) : (s.serviced b).rdWritten = s.rdWritten := s.pushed_rdWritten b
@[simp] theorem State.serviced_fault (s : State) (b : Byte) : (s.serviced b).fault = s.fault := s.pushed_fault b
@[simp] theorem State.serviced_refused (s : State) (b : Byte) : (s.serviced b).refused = s.refused := s.pushed_refused b
@[simp] theorem State.serviced_cmem (s : State) (b : Byte) : (s.serviced b).cmem = s.cmem := s.pushed_cmem b
@[simp] theorem State.serviced_inbox (s : State) (b : Byte) : (s.serviced b).inbox = s.inbox := s.pushed_inbox b

/-- IRQ's rule once the handler is registered; the push can be made first, since the port and the history are outside the FIFO. -/
theorem bodyIrq_eq_serviced (hs : s.issuer = .producer) (hreg : s.irqReg = true) :
    bodyIrq s = s.serviced s.nextPortByte := by
  rcases bodyIrq_cases s with ⟨hno, -⟩ | ⟨-, e⟩
  · exact absurd (hno.symm.trans hreg) (by decide)
  · rw [e, State.pushed_logged, State.pushed_drawn, hs]
    simp only [State.serviced, State.logged, State.drawn, State.respond, State.pushed_history, State.pushed_drawIndex,
      State.pushed_responses, List.append_assoc, List.singleton_append]

theorem exec_irq (hs : s.issuer = .producer) (hreg : s.irqReg = true) :
    exec .irq s = .next (s.serviced s.nextPortByte) := by
  rw [exec_eq, checked_producer _ rfl hs, ruleOf, bodyIrq_eq_serviced hs hreg]

theorem exec_irq_of_unregistered (hs : s.issuer = .producer) (hreg : s.irqReg = false) : exec .irq s = .next s.noStep := by
  rw [exec_eq, checked_producer _ rfl hs, ruleOf]
  simp [bodyIrq, hreg]

/-- The response's byte stands above the bit (R80). -/
theorem toNat_respIrq (ok : Bool) (b : Byte) : (respIrq ok b).toNat = (bit ok).toNat + 256 * b.toNat := by
  have hb : b.toNat < 2 ^ 8 := b.isLt
  have hbit : (bit ok).toNat < 2 ^ 8 := by cases ok <;> decide
  have hshift : (b.setWidth 32 <<< 8 : Word).toNat = 2 ^ 8 * b.toNat := by
    simp only [BitVec.toNat_shiftLeft, BitVec.toNat_setWidth, Nat.shiftLeft_eq]
    omega
  rw [respIrq, BitVec.toNat_or, hshift, Nat.or_comm, ← Nat.two_pow_add_eq_or_of_lt hbit, Nat.add_comm]

theorem respIrq_eq_ofNat (ok : Bool) (b : Byte) : respIrq ok b = BitVec.ofNat 32 ((bit ok).toNat + 256 * b.toNat) := by
  rw [← toNat_respIrq, BitVec.ofNat_toNat, BitVec.setWidth_eq]

theorem respIrq_eq_add (ok : Bool) (b : Byte) : respIrq ok b = respPush ok + 256 * b.setWidth 32 := by
  simp only [respIrq_eq_ofNat, BitVec.ofNat_add, BitVec.ofNat_mul, BitVec.ofNat_toNat, BitVec.setWidth_eq]
  rfl

/-- Settles O23: not enabled before the registration, and after it a push with room or a push dropped. -/
theorem irqReadsPushesAcknowledges : Obligations.IrqReadsPushesAcknowledges := by
  rintro s b hs rfl
  refine ⟨exec_irq_of_unregistered hs, fun hreg hroom => ?_, fun hreg hcount => ?_⟩
  · have hfull : s.isFull = false := beq_eq_false_iff_ne.2 hroom
    rw [exec_irq hs hreg, State.serviced, State.pushed_of_room _ hfull, hfull, respIrq_eq_ofNat]
    rfl
  · have hfull : s.isFull = true := beq_iff_eq.2 hcount
    have hzero : (bit !true).toNat = 0 := rfl
    rw [exec_irq hs hreg, State.serviced, State.pushed_of_full _ hfull, hfull, respIrq_eq_ofNat, hzero, Nat.zero_add]
    rfl

/-- Settles O24: the same push, and the response that adds the byte to the push's. -/
theorem irqIsPortReadPushAck : Obligations.IrqIsPortReadPushAck := by
  intro s t u b hs hreg hb hpush hirq
  rw [exec_eq, checked_producer _ rfl hs] at hpush
  obtain rfl := Host.Outcome.next.inj hpush
  rw [exec_irq hs hreg] at hirq
  obtain rfl := Host.Outcome.next.inj hirq
  refine ⟨respPush (!s.isFull), ?_, ?_⟩
  · rw [ruleOf, bodyPush, State.respond_responses, State.pushed_responses, hs]
  · rw [← respIrq_eq_add, hb]
    rfl

end Sys2Proof.Machine
end

section
/-! The READ step case by case: the iteration, the completion, and the frame of both (42_driver.md R163, R164). -/

namespace Sys2Proof.Machine

variable {s : State}

/-! ### The iteration (R163) -/

section

variable {v c : Byte} {m : Modifiers} (h : s.rdActive = true) (hlt : s.rdWritten.toNat < s.rdReq.toNat) (h0 : 0 < s.count)
include h hlt h0

/-- Within the request and with an entry buffered, the READ step is the iteration. -/
theorem readStepState_of_unfinished : readStepState s = readIteration s :=
  readStepState_iteration h (s.iterates_iff.2 ⟨hlt, h0⟩)

theorem readStepState_of_silent (hv : s.mem.read s.head = some v) (hT : translate v s.mods = (none, m)) :
    readStepState s = (s.removed.withMods m).ranSilently := by
  simp [readStepState_of_unfinished h hlt h0, readIteration, hv, hT]

theorem readStepState_of_char (hv : s.mem.read s.head = some v) (hT : translate v s.mods = (some c, m))
    (hadm : admits s.params s.outAddr = true) :
    readStepState s = ((s.removed.withMods m).charWritten c).ranSilently := by
  simp [readStepState_of_unfinished h hlt h0, readIteration, hv, hT, hadm]

theorem readStepState_of_unadmitted (hv : s.mem.read s.head = some v) (hT : translate v s.mods = (some c, m))
    (hadm : admits s.params s.outAddr = false) : readStepState s = s.noStep := by
  simp [readStepState_of_unfinished h hlt h0, readIteration, hv, hT, hadm]

theorem readStepState_of_unwritten (hv : s.mem.read s.head = none) :
    readStepState s = s.enterFault (.invariant 6) .consumer [] := by
  simp [readStepState_of_unfinished h hlt h0, readIteration, hv]

end

/-- Settles O26: what the entry at HEAD is, what T makes of it, and whether its write is admitted. -/
theorem readIterationPopsTranslatesWrites : Obligations.ReadIterationPopsTranslatesWrites :=
  fun _ h hlt h0 =>
    ⟨fun _ _ hv hT => congrArg Host.Outcome.next (readStepState_of_silent h hlt h0 hv hT),
      fun _ _ _ hv hT =>
        ⟨fun hadm => congrArg Host.Outcome.next (readStepState_of_char h hlt h0 hv hT hadm),
          fun hadm => congrArg Host.Outcome.next (readStepState_of_unadmitted h hlt h0 hv hT hadm)⟩,
      fun hv => congrArg Host.Outcome.next (readStepState_of_unwritten h hlt h0 hv)⟩

/-! ### The completion (R164) -/

/-- Where the completion's condition holds the iteration's does not. -/
theorem readStepState_of_done (h : s.rdActive = true) (hdone : s.rdWritten = s.rdReq ∨ s.count = 0) :
    readStepState s = readCompletion s := by
  have hiter : s.iterates = false := by
    rw [← Bool.not_eq_true, s.iterates_iff]
    rintro ⟨hlt, h0⟩
    rcases hdone with hw | hc
    · exact absurd (congrArg BitVec.toNat hw) hlt.ne
    · exact absurd hc h0.ne'
  exact readStepState_completion h hiter (s.completes_iff.2 hdone)

/-- Settles O27. -/
theorem readCompletionReturnsTheCount : Obligations.ReadCompletionReturnsTheCount :=
  fun _ h hdone => congrArg Host.Outcome.next (readStepState_of_done h hdone)

/-! ### The frame -/

/-- Settles O33: only an admitted iteration writes consumer memory, and it writes one byte. -/
theorem readStepWritesOnlyTheOutputByte : Obligations.ReadStepWritesOnlyTheOutputByte := by
  intro s t h
  obtain rfl := Host.Outcome.next.inj h
  rcases readStep_cases s with ⟨-, e⟩ | ⟨-, -, -, -, e⟩ | ⟨-, -, -, v, -, -, e⟩ | ⟨-, -, -, v, c, -, -, -, e⟩ |
    ⟨-, -, e⟩ <;> rw [e]
  case inr.inr.inr.inl =>
    exact ⟨fun _ ha => Memory.read_write_other _ c ha, rfl, rfl, rfl, rfl, rfl, rfl, rfl, rfl, rfl⟩
  all_goals exact ⟨fun _ _ => rfl, rfl, rfl, rfl, rfl, rfl, rfl, rfl, rfl, rfl⟩

end Sys2Proof.Machine
end

section
/-! What a READ call writes, where, how much, and when it ends, over any run of READ steps and Producer attempts (R165, R167). -/

namespace Sys2Proof.Machine

variable {s t u : State} {p q : List Byte} {v c : Byte}

/-! ### Events and responses of interest -/

/-- The writes of consecutive characters lie in every range that holds their addresses. -/
theorem writeEvents_within {lo n a : Nat} {cs : List Byte} (hlo : lo ≤ a) (hhi : a + cs.length ≤ lo + n) :
    (writeEvents a cs).all (Event.within lo n) = true := by
  induction cs generalizing a with
  | nil => rfl
  | cons c cs ih =>
    rw [List.length_cons] at hhi
    rw [writeEvents, List.all_cons, ih (by omega) (by omega), Bool.and_true, Event.within, Bool.and_eq_true,
      decide_eq_true_eq, decide_eq_true_eq]
    omega

/-- Only MemWrites can lie outside a range. -/
theorem all_within_of_memWrites {lo n : Nat} {es : List Event}
    (h : (es.filter Event.isMemWrite).all (Event.within lo n) = true) : es.all (Event.within lo n) = true := by
  rw [List.all_eq_true] at h ⊢
  intro e he
  cases e with
  | memWrite a v => exact h _ (List.mem_filter.2 ⟨he, rfl⟩)
  | portRead | ack | register => rfl

/-- The response is returned to the Consumer. -/
def Response.isConsumers (r : Response) : Bool := r.agent == .consumer

/-- From `s` to `t` the history grew by events none of which is a MemWrite, and no response went to the Consumer. -/
structure State.Quiet (s t : State) : Prop where
  events    : ∃ new, t.history = s.history ++ new ∧ new.filter Event.isMemWrite = []
  responses : ∃ new, t.responses = s.responses ++ new ∧ new.filter Response.isConsumers = []

theorem State.Quiet.of_eq (hh : t.history = s.history) (hr : t.responses = s.responses) : s.Quiet t :=
  ⟨⟨[], by simp [hh], rfl⟩, ⟨[], by simp [hr], rfl⟩⟩

theorem ruleOf_producer_consumerSide {i : Instr} (hi : i.agent = .producer) (hs : s.issuer = .producer) :
    (ruleOf i s).consumerSide = s.consumerSide :=
  exec_producer_consumerSide hi (by rw [exec_eq, checked_producer _ hi hs])

theorem ruleOf_producer_quiet {i : Instr} (hi : i.agent = .producer) (hs : s.issuer = .producer) : s.Quiet (ruleOf i s) := by
  cases i with
  | push b =>
    have hresp : (ruleOf (.push b) s).responses = s.responses ++ [⟨.producer, respPush (!s.isFull)⟩] := by
      simp [ruleOf, bodyPush, hs]
    exact ⟨⟨[], by simp [ruleOf, bodyPush], rfl⟩, _, hresp, rfl⟩
  | irq =>
    cases hreg : s.irqReg with
    | false => exact .of_eq (by simp [ruleOf, bodyIrq, hreg]) (by simp [ruleOf, bodyIrq, hreg])
    | true =>
      rw [ruleOf, bodyIrq_eq_serviced hs hreg]
      exact ⟨⟨_, rfl, rfl⟩, ⟨_, rfl, rfl⟩⟩
  | finit | pop | empty | xlat | dinit | read => cases hi

/-! ### The progress of a call -/

/-- What the Consumer has done from `s` to `t` by popping `popped` in READ steps and in no other way: the characters T gives on
the codes popped were written, in order, from RD_BASE + RD_WRITTEN on, and the only response it got is that of the completion, if
the call ended. -/
structure CallProgress (popped : List Byte) (s t : State) : Prop where
  base      : t.rdBase = s.rdBase
  req       : t.rdReq = s.rdReq
  written   : t.rdWritten.toNat = s.rdWritten.toNat + (charsOf popped s.mods).length
  bounded   : s.rdWritten.toNat ≤ s.rdReq.toNat → t.rdWritten.toNat ≤ t.rdReq.toNat
  mods      : t.mods = flagsAfter popped s.mods
  cmem      : t.cmem = writeAll s.cmem s.outAddr (charsOf popped s.mods)
  events    : ∃ new, t.history = s.history ++ new ∧
    new.filter Event.isMemWrite = writeEvents s.outAddr (charsOf popped s.mods)
  responses : ∃ new, t.responses = s.responses ++ new ∧ new.filter Response.isConsumers =
    if t.rdActive = s.rdActive then [] else [⟨.consumer, respRead t.rdWritten⟩]
  closed    : s.rdActive = false → t.rdActive = false ∧ t.rdWritten = s.rdWritten

/-- A step that leaves what the Consumer owns. -/
theorem CallProgress.of_consumerSide (hside : t.consumerSide = s.consumerSide) (hquiet : s.Quiet t) :
    CallProgress [] s t := by
  obtain ⟨-, hmods, hcall, hcmem⟩ := ConsumerSide.mk.inj hside
  obtain ⟨hactive, hbase, hreq, hwritten⟩ := CallRegisters.mk.inj hcall
  exact
    { base := hbase
      req := hreq
      written := congrArg BitVec.toNat hwritten
      bounded := fun h => by rw [hwritten, hreq]; exact h
      mods := hmods
      cmem := hcmem
      events := hquiet.events
      responses := by rw [if_pos hactive]; exact hquiet.responses
      closed := fun h => ⟨hactive.trans h, hwritten⟩ }

theorem CallProgress.outAddr (h : CallProgress p s t) : t.outAddr = s.outAddr + (charsOf p s.mods).length := by
  rw [State.outAddr, State.outAddr, h.base, h.written, Nat.add_assoc]

theorem CallProgress.charsOf_append (h : CallProgress p s t) :
    charsOf (p ++ q) s.mods = charsOf p s.mods ++ charsOf q t.mods := by
  rw [Machine.charsOf_append, h.mods]

/-- The Consumer's responses in two parts: once the call has ended there are no more. -/
theorem CallProgress.responses_trans (h : CallProgress p s u) (h' : CallProgress q u t) :
    ∃ new, t.responses = s.responses ++ new ∧ new.filter Response.isConsumers =
      if t.rdActive = s.rdActive then [] else [⟨.consumer, respRead t.rdWritten⟩] := by
  obtain ⟨rs, hrs, hcons⟩ := h.responses
  obtain ⟨rs', hrs', hcons'⟩ := h'.responses
  refine ⟨rs ++ rs', by rw [hrs', hrs, List.append_assoc], ?_⟩
  rw [List.filter_append, hcons, hcons']
  by_cases hu : u.rdActive = s.rdActive
  · rw [if_pos hu, hu, List.nil_append]
  · have hopen : s.rdActive = true := by
      by_contra hs
      have hs : s.rdActive = false := by simpa using hs
      exact hu ((h.closed hs).1.trans hs.symm)
    have hended : u.rdActive = false := by simpa [hopen] using hu
    obtain ⟨hstill, hwritten⟩ := h'.closed hended
    simp [hopen, hended, hstill, hwritten]

theorem CallProgress.trans (h : CallProgress p s u) (h' : CallProgress q u t) : CallProgress (p ++ q) s t where
  base := h'.base.trans h.base
  req := h'.req.trans h.req
  written := by rw [h'.written, h.written, h.charsOf_append, List.length_append, Nat.add_assoc]
  bounded := fun hle => h'.bounded (h.bounded hle)
  mods := by rw [h'.mods, h.mods, flagsAfter_append]
  cmem := by rw [h'.cmem, h.cmem, h.outAddr, h.charsOf_append, writeAll_append]
  events := by
    obtain ⟨es, hes, hwrites⟩ := h.events
    obtain ⟨es', hes', hwrites'⟩ := h'.events
    refine ⟨es ++ es', by rw [hes', hes, List.append_assoc], ?_⟩
    rw [List.filter_append, hwrites, hwrites', h.outAddr, h.charsOf_append, writeEvents_append]
  responses := h.responses_trans h'
  closed := fun hs =>
    have ⟨hu, hw⟩ := h.closed hs
    have ⟨ht, hw'⟩ := h'.closed hu
    ⟨ht, hw'.trans hw⟩

/-! ### One step -/

/-- Within the request RD_WRITTEN counts up without wrapping. -/
theorem State.toNat_rdWritten_succ (hlt : s.rdWritten.toNat < s.rdReq.toNat) :
    (s.rdWritten + 1).toNat = s.rdWritten.toNat + 1 := by
  have hreq : s.rdReq.toNat < 2 ^ 24 := s.rdReq.isLt
  rw [BitVec.toNat_add, show (1 : Count24).toNat = 1 from rfl, Nat.mod_eq_of_lt (by omega)]

/-- Nothing left the FIFO where COUNT did not fall. -/
theorem CallProgress.of_count_le (h : CallProgress [] s t) (hc : s.count ≤ t.count) : CallProgress (leftBy s t) s t := by
  rw [leftBy_of_ne (by omega)]
  exact h

theorem leftBy_of_pop (h0 : 0 < s.count) (hv : s.mem.read s.head = some v) (hc : t.count = s.count - 1) :
    leftBy s t = [v] := by
  simp [leftBy, show t.count + 1 = s.count by omega, hv]

/-- An iteration whose code gives no character. -/
theorem callProgress_silent (hT : (translate v s.mods).1 = none) :
    CallProgress [v] s (s.removed.withMods (translate v s.mods).2).ranSilently := by
  have hchars : charsOf [v] s.mods = [] := by simp [charsOf, hT]
  exact
    { base := rfl
      req := rfl
      written := by rw [hchars]; rfl
      bounded := id
      mods := rfl
      cmem := by rw [hchars]; rfl
      events := ⟨[], by simp, by rw [hchars]; rfl⟩
      responses := ⟨[], by simp, (if_pos rfl).symm⟩
      closed := fun h => ⟨h, rfl⟩ }

/-- An iteration that writes a character. -/
theorem callProgress_char (hopen : s.rdActive = true) (hlt : s.rdWritten.toNat < s.rdReq.toNat)
    (hT : (translate v s.mods).1 = some c) :
    CallProgress [v] s ((s.removed.withMods (translate v s.mods).2).charWritten c).ranSilently := by
  have hchars : charsOf [v] s.mods = [c] := by simp [charsOf, hT]
  have hsucc := State.toNat_rdWritten_succ hlt
  exact
    { base := rfl
      req := rfl
      written := by rw [hchars]; exact hsucc
      bounded := fun _ => hsucc.trans_le hlt
      mods := rfl
      cmem := by rw [hchars]; rfl
      events := ⟨_, rfl, by rw [hchars]; rfl⟩
      responses := ⟨[], by simp, (if_pos rfl).symm⟩
      closed := fun h => absurd (h.symm.trans hopen) (by decide) }

/-- The completion. -/
theorem callProgress_completion (hopen : s.rdActive = true) : CallProgress [] s (readCompletion s) where
  base := rfl
  req := rfl
  written := rfl
  bounded := id
  mods := rfl
  cmem := rfl
  events := ⟨[], by simp [readCompletion], rfl⟩
  responses := ⟨_, rfl, by simp [readCompletion, hopen, Response.isConsumers]⟩
  closed := fun h => ⟨rfl, rfl⟩

theorem readStepState_callProgress (s : State) : CallProgress (leftBy s (readStepState s)) s (readStepState s) := by
  rcases readStep_cases s with ⟨-, e⟩ | ⟨-, -, -, -, e⟩ | ⟨-, -, h0, v, hv, hT, e⟩ |
    ⟨hopen, hlt, h0, v, c, hv, hT, -, e⟩ | ⟨hopen, -, e⟩ <;> rw [e]
  · exact .of_count_le (.of_consumerSide rfl (.of_eq rfl rfl)) (Nat.le_refl s.count)
  · exact .of_count_le (.of_consumerSide rfl (.of_eq rfl rfl)) (Nat.le_refl s.count)
  · rw [leftBy_of_pop h0 hv rfl]
    exact callProgress_silent hT
  · rw [leftBy_of_pop h0 hv rfl]
    exact callProgress_char hopen hlt hT
  · exact (callProgress_completion hopen).of_count_le (Nat.le_refl s.count)

/-- A Producer's command takes no part in the call. -/
theorem ruleOf_producer_callProgress {i : Instr} (hi : i.agent = .producer) (hs : s.issuer = .producer) :
    CallProgress (leftBy s (ruleOf i s)) s (ruleOf i s) := by
  have heff : FifoEffect .producer _ s (ruleOf i s) := hi ▸ ruleOf_fifoEffect i s
  have hcount : s.count ≤ (ruleOf i s).count := by rcases heff.count_of_producer with hc | hc <;> omega
  exact (CallProgress.of_consumerSide (ruleOf_producer_consumerSide hi hs) (ruleOf_producer_quiet hi hs)).of_count_le hcount

/-- Taking an attempt off the schedule changes nothing the progress speaks of. -/
theorem CallProgress.of_accepted {a : Attempt} {rest : List Attempt} (h : CallProgress p (s.accepted a rest) t) :
    CallProgress p s t := by
  have hfirst : CallProgress [] s (s.accepted a rest) := .of_consumerSide rfl (.of_eq rfl rfl)
  exact hfirst.trans h

/-- A step whose attempt is a READ step or the Producer's. -/
theorem step_callProgress (h : step s = .next t) (hin : ∀ a ∈ s.inbox, a = .readStep ∨ a.agent = .producer) :
    CallProgress (leftBy s t) s t := by
  rcases step_rule_cases h with ⟨ib, ag, pb, f, r, l, -, rfl⟩ | ⟨i, cmd, b, rest, hi, -, -, rfl⟩ | ⟨rest, -, rfl⟩
  · exact .of_count_le (.of_consumerSide rfl (.of_eq rfl rfl)) (Nat.le_refl s.count)
  · have hagent : i.agent = .producer := by
      rcases hin _ (hi ▸ List.mem_cons_self) with hread | hprod
      · cases hread
      · exact hprod
    exact .of_accepted (ruleOf_producer_callProgress hagent hagent)
  · exact .of_accepted (readStepState_callProgress (s.accepted .readStep rest))

/-! ### A run -/

theorem run_callProgress {k : Nat} (hin : ∀ a ∈ s.inbox, a = .readStep ∨ a.agent = .producer) (h : run k s = .next t) :
    CallProgress (traffic k s).2 s t := by
  induction k generalizing s with
  | zero =>
    obtain rfl := Host.Outcome.next.inj h
    exact .of_consumerSide rfl (.of_eq rfl rfl)
  | succ k ih =>
    obtain ⟨u, hu, hrun⟩ := run_succ h
    rw [traffic_succ hu]
    exact (step_callProgress hu hin).trans (ih (fun a ha => hin a (step_inbox_subset hu ha)) hrun)

/-- Only the completion closes a call. -/
theorem step_closes (h : step s = .next t) (hopen : s.rdActive = true) (hclosed : t.rdActive = false) :
    (s.rdWritten = s.rdReq ∨ s.count = 0) ∧ ∃ rest, t = readCompletion (s.accepted .readStep rest) := by
  have hne : t.rdActive ≠ s.rdActive := by simp [hopen, hclosed]
  rcases step_rule_cases h with ⟨ib, ag, pb, f, r, l, -, rfl⟩ | ⟨i, cmd, b, rest, -, -, hidle, rfl⟩ | ⟨rest, -, rfl⟩
  · exact absurd rfl hne
  · cases hagent : i.agent with
    | consumer => exact absurd (hopen.symm.trans (hidle hagent)) (by decide)
    | producer =>
      obtain ⟨-, -, hcall, -⟩ := ConsumerSide.mk.inj
        (ruleOf_producer_consumerSide (s := s.accepted (.issue i.agent cmd b) rest) hagent hagent)
      obtain ⟨hactive, -⟩ := CallRegisters.mk.inj hcall
      exact absurd hactive hne
  · rcases readStep_cases (s.accepted .readStep rest) with ⟨-, e⟩ | ⟨-, -, -, -, e⟩ | ⟨-, -, -, v, -, -, e⟩ |
      ⟨-, -, -, v, c, -, -, -, e⟩ | ⟨-, hdone, e⟩ <;> rw [e] at hne ⊢
    case inr.inr.inr.inr => exact ⟨hdone, rest, rfl⟩
    all_goals exact absurd rfl hne

/-- Settles O57: a run is a sequence of steps each of which makes progress on the call by what it pops; the writes lie within the
request because RD_WRITTEN stays within it. -/
theorem readStaysWithinTheRequest : Obligations.ReadStaysWithinTheRequest := by
  refine ⟨fun k s t hopen hle hin hrun => ?_, fun s t hstep hopen hclosed => ?_⟩
  · have h := run_callProgress hin hrun
    have hbound : t.rdWritten.toNat ≤ s.rdReq.toNat := h.req ▸ h.bounded hle
    obtain ⟨es, hes, hwrites⟩ := h.events
    obtain ⟨rs, hrs, hcons⟩ := h.responses
    rw [hopen] at hcons
    refine ⟨⟨es, hes, all_within_of_memWrites ?_, hwrites⟩, h.cmem, h.mods, h.written, hbound, rs, hrs,
      fun r hr hag => ?_, ?_⟩
    · have hwritten := h.written
      rw [hwrites]
      exact writeEvents_within (Nat.le_add_right _ _) (by rw [State.outAddr]; omega)
    · have hmem : r ∈ rs.filter Response.isConsumers := List.mem_filter.2 ⟨hr, beq_iff_eq.2 hag⟩
      rw [hcons] at hmem
      split at hmem
      · cases hmem
      · obtain rfl := List.mem_singleton.1 hmem
        simpa [respRead] using by omega
    · exact hcons
  · obtain ⟨hdone, rest, rfl⟩ := step_closes hstep hopen hclosed
    exact ⟨hdone, rfl, rfl, rfl⟩

end Sys2Proof.Machine
end

section
/-! A READ that no Producer step disturbs is R166's reference function (R166, R257). -/

namespace Sys2Proof.Machine

variable {s t u : State} {n i k : Nat} {rest : List Attempt} {v c : Byte} {vs : List Byte} {m : Modifiers}

/-! ### Steps of an unmarked, unbroken state -/

theorem run_succ_of_step (h : step s = .next u) : run (k + 1) s = run k u := by simp [run, h]

theorem step_of_readStep (hf : s.fault = none) (hr : s.refused = none) (hb : s.brokenInvariant = none)
    (hi : s.inbox = .readStep :: rest) : step s = .next (readStepState (s.accepted .readStep rest)) := by
  rw [step_of_attempt hf hr hi, attempted_readStep (by simpa using hb)]

theorem step_of_command {ag : Agent} {cmd : Command} {b : Option Byte} {j : Instr} (hf : s.fault = none)
    (hr : s.refused = none) (hb : s.brokenInvariant = none) (hi : s.inbox = .issue ag cmd b :: rest)
    (hd : decode s.params.addrW cmd = .ok j) : step s = exec j (s.accepted (.issue ag cmd b) rest) := by
  rw [step_of_attempt hf hr hi, attempted_command (s := s.accepted _ rest) ag b (by simpa using hb) hd, exec_eq]

/-! ### The reference function, case by case -/

theorem readReference_nil (n : Nat) (m : Modifiers) : readReference n [] m = ([], [], m) := by
  unfold readReference
  rfl

theorem readReference_zero (vs : List Byte) (m : Modifiers) : readReference 0 vs m = ([], vs, m) := by
  cases vs <;> rfl

theorem readReference_silent (hT : (translate v m).1 = none) :
    readReference (n + 1) (v :: vs) m = readReference (n + 1) vs (translate v m).2 := by
  simp [readReference, hT]

theorem readReference_char (hT : (translate v m).1 = some c) :
    readReference (n + 1) (v :: vs) m =
      (c :: (readReference n vs (translate v m).2).1, (readReference n vs (translate v m).2).2) := by
  simp [readReference, hT]

/-- The reference function takes a first code off the queue and goes on with the others. -/
theorem readReference_tail (n : Nat) (v : Byte) (vs : List Byte) (m : Modifiers) :
    ∃ n', (readReference (n + 1) (v :: vs) m).2 = (readReference n' vs (translate v m).2).2 := by
  cases hT : (translate v m).1 with
  | none => exact ⟨n + 1, by rw [readReference_silent hT]⟩
  | some c => exact ⟨n, by rw [readReference_char hT]⟩

theorem length_readReference_le (n : Nat) (vs : List Byte) (m : Modifiers) :
    (readReference n vs m).2.1.length ≤ vs.length := by
  induction vs generalizing n m with
  | nil => rw [readReference_nil]
  | cons v vs ih =>
    cases n with
    | zero => rw [readReference_zero]
    | succ n =>
      obtain ⟨n', htail⟩ := readReference_tail n v vs m
      rw [htail]
      exact (ih n' _).trans (Nat.le_succ _)

/-- Where a code is taken, the loop's count of codes taken is not 0. -/
theorem readReference_taken (h : i + (readReference (n + 1) (v :: vs) m).2.1.length = (v :: vs).length) :
    ∃ j, i = j + 1 := by
  obtain ⟨n', htail⟩ := readReference_tail n v vs m
  have hle := length_readReference_le n' vs (translate v m).2
  rw [htail, List.length_cons] at h
  exact Nat.exists_eq_succ_of_ne_zero (by omega)

/-! ### A call that may still write `n` characters -/

/-- An open call in an unmarked, unbroken state, with `n` characters still to come and all of them admitted. -/
structure State.Reading (n : Nat) (s : State) : Prop where
  fifo     : s.brokenInvariant = none
  fault    : s.fault = none
  refused  : s.refused = none
  active   : s.rdActive = true
  missing  : s.rdWritten.toNat + n = s.rdReq.toNat
  admitted : MemAdmits s.params s.outAddr n

theorem State.Reading.accepted (h : s.Reading n) (a : Attempt) (rest : List Attempt) : (s.accepted a rest).Reading n :=
  { h with fifo := by simpa using h.fifo }

/-- An iteration without a character leaves as many to come. -/
theorem State.Reading.silent (h : s.Reading n) (h0 : 0 < s.count) (m : Modifiers) :
    (s.removed.withMods m).ranSilently.Reading n :=
  { h with fifo := by simpa using State.fifo_removed h.fifo h0 }

theorem State.Reading.unfinished (h : s.Reading (n + 1)) : s.rdWritten.toNat < s.rdReq.toNat := by
  have := h.missing
  omega

theorem State.Reading.toNat_rdWritten_char (h : s.Reading (n + 1)) (m : Modifiers) (c : Byte) :
    ((s.removed.withMods m).charWritten c).ranSilently.rdWritten.toNat = s.rdWritten.toNat + 1 :=
  State.toNat_rdWritten_succ h.unfinished

theorem State.Reading.outAddr_char (h : s.Reading (n + 1)) (m : Modifiers) (c : Byte) :
    ((s.removed.withMods m).charWritten c).ranSilently.outAddr = s.outAddr + 1 :=
  congrArg (s.rdBase.toNat + ·) (h.toNat_rdWritten_char m c)

/-- An iteration with a character leaves one fewer to come. -/
theorem State.Reading.char (h : s.Reading (n + 1)) (h0 : 0 < s.count) (m : Modifiers) (c : Byte) :
    ((s.removed.withMods m).charWritten c).ranSilently.Reading n where
  fifo := by simpa using State.fifo_removed h.fifo h0
  fault := h.fault
  refused := h.refused
  active := h.active
  missing := by
    rw [h.toNat_rdWritten_char, Nat.add_right_comm]
    exact h.missing
  admitted := by
    intro k hk
    rw [h.outAddr_char, Nat.add_assoc, Nat.add_comm 1]
    exact h.admitted (k + 1) (Nat.succ_lt_succ hk)

theorem State.Reading.step_done (h : s.Reading n) (hi : s.inbox = .readStep :: rest) (hdone : n = 0 ∨ s.queue = []) :
    step s = .next (readCompletion (s.accepted .readStep rest)) := by
  rw [step_of_readStep h.fault h.refused h.fifo hi]
  refine congrArg Host.Outcome.next (readStepState_of_done h.active ?_)
  rcases hdone with rfl | hq
  · exact .inl (BitVec.eq_of_toNat_eq h.missing)
  · exact .inr ((State.length_queue h.fifo).symm.trans (congrArg List.length hq))

/-! ### The whole call -/

/-- `t` is where the call that is open in `s` ends, with `r` the characters still written, the codes left and the flags. -/
structure State.EndsRead (s : State) (rest : List Attempt) (r : List Byte × List Byte × Modifiers) (t : State) : Prop where
  inbox     : t.inbox = rest
  closed    : t.rdActive = false
  fault     : t.fault = none
  refused   : t.refused = none
  responses : t.responses = s.responses ++ [⟨.consumer, BitVec.ofNat 32 (s.rdWritten.toNat + r.1.length)⟩]
  queue     : t.queue = r.2.1
  mods      : t.mods = r.2.2
  cmem      : t.cmem = writeAll s.cmem s.outAddr r.1

/-- The completion ends the call with no further character. -/
theorem State.Reading.endsRead_completion (h : s.Reading n) (hq : s.queue = vs) :
    s.EndsRead rest ([], vs, s.mods) (readCompletion (s.accepted .readStep rest)) where
  inbox := rfl
  closed := rfl
  fault := h.fault
  refused := h.refused
  responses := by rw [List.length_nil, Nat.add_zero, BitVec.ofNat_toNat]; rfl
  queue := hq
  mods := rfl
  cmem := rfl

theorem State.Reading.oldest (h : s.Reading n) (hq : s.queue = v :: vs) :
    0 < s.count ∧ s.mem.read s.head = some v ∧ s.removed.queue = vs := by
  have h0 : 0 < s.count := by rw [← State.length_queue h.fifo, hq]; exact Nat.succ_pos _
  obtain ⟨w, hw, hcons⟩ := State.queue_eq_cons h.fifo h0
  obtain ⟨rfl, rfl⟩ := List.cons.inj (hq.symm.trans hcons)
  exact ⟨h0, hw, rfl⟩

/-- An iteration whose code gives no character leaves the rest of the call to do. -/
theorem State.Reading.step_silent (h : s.Reading (n + 1)) (hi : s.inbox = .readStep :: rest) (hq : s.queue = v :: vs)
    (hT : (translate v s.mods).1 = none) :
    ∃ u, step s = .next u ∧ u.Reading (n + 1) ∧ u.inbox = rest ∧ u.queue = vs ∧ u.mods = (translate v s.mods).2 ∧
      ∀ {rest' r t}, u.EndsRead rest' r t → s.EndsRead rest' r t := by
  obtain ⟨h0, hv, htail⟩ := h.oldest hq
  have h' := h.accepted .readStep rest
  refine ⟨((s.accepted .readStep rest).removed.withMods (translate v s.mods).2).ranSilently, ?_, h'.silent h0 _, rfl, htail,
    rfl, fun hend => { hend with }⟩
  rw [step_of_readStep h.fault h.refused h.fifo hi, readStepState_of_silent h'.active h'.unfinished h0 hv (Prod.ext hT rfl)]
  rfl

/-- An iteration that writes a character, likewise. -/
theorem State.Reading.step_char (h : s.Reading (n + 1)) (hi : s.inbox = .readStep :: rest) (hq : s.queue = v :: vs)
    (hT : (translate v s.mods).1 = some c) :
    ∃ u, step s = .next u ∧ u.Reading n ∧ u.inbox = rest ∧ u.queue = vs ∧ u.mods = (translate v s.mods).2 ∧
      ∀ {rest' r t}, u.EndsRead rest' r t → s.EndsRead rest' (c :: r.1, r.2) t := by
  obtain ⟨h0, hv, htail⟩ := h.oldest hq
  have h' := h.accepted .readStep rest
  refine ⟨(((s.accepted .readStep rest).removed.withMods (translate v s.mods).2).charWritten c).ranSilently, ?_,
    h'.char h0 _ c, rfl, htail, rfl, fun hend => { hend with responses := ?_, cmem := ?_ }⟩
  · rw [step_of_readStep h.fault h.refused h.fifo hi,
      readStepState_of_char h'.active h'.unfinished h0 hv (Prod.ext hT rfl) (h'.admitted 0 (Nat.succ_pos n))]
    rfl
  · have hresp := hend.responses
    rw [h'.toNat_rdWritten_char, Nat.add_assoc, Nat.add_comm 1] at hresp
    exact hresp
  · have hcmem := hend.cmem
    rw [h'.outAddr_char] at hcmem
    exact hcmem

/-- R166: the call pops `i` codes, as many as the reference function takes off the queue, and ends as it does. -/
theorem State.Reading.run_endsRead (h : s.Reading n)
    (hi : i + (readReference n s.queue s.mods).2.1.length = s.queue.length)
    (hin : s.inbox = List.replicate (i + 1) .readStep ++ rest) :
    ∃ t, run (i + 1) s = .next t ∧ s.EndsRead rest (readReference n s.queue s.mods) t := by
  generalize hq : s.queue = q at hi ⊢
  induction q generalizing s n i with
  | nil =>
    rw [readReference_nil] at hi ⊢
    obtain rfl : i = 0 := by simpa using hi
    exact ⟨_, run_succ_of_step (h.step_done hin (.inr hq)), h.endsRead_completion hq⟩
  | cons v vs ih =>
    cases n with
    | zero =>
      rw [readReference_zero] at hi ⊢
      obtain rfl : i = 0 := by simpa using hi
      exact ⟨_, run_succ_of_step (h.step_done hin (.inl rfl)), h.endsRead_completion hq⟩
    | succ n =>
      obtain ⟨j, rfl⟩ := readReference_taken hi
      cases hT : (translate v s.mods).1 with
      | none =>
        obtain ⟨u, hstep, hu, hrest, hqueue, hmods, hback⟩ := h.step_silent hin hq hT
        rw [readReference_silent hT, ← hmods] at hi ⊢
        obtain ⟨t, hrun, hend⟩ := ih hu hrest hqueue (by rw [Nat.add_right_comm] at hi; exact Nat.succ.inj hi)
        exact ⟨t, (run_succ_of_step hstep).trans hrun, hback hend⟩
      | some c =>
        obtain ⟨u, hstep, hu, hrest, hqueue, hmods, hback⟩ := h.step_char hin hq hT
        rw [readReference_char hT, ← hmods] at hi ⊢
        obtain ⟨t, hrun, hend⟩ := ih hu hrest hqueue (by rw [Nat.add_right_comm] at hi; exact Nat.succ.inj hi)
        exact ⟨t, (run_succ_of_step hstep).trans hrun, hback hend⟩

/-- Settles O58: READ's issue opens the call, and the iterations follow the reference function's loop. -/
theorem undisturbedReadIsTheReference : Obligations.UndisturbedReadIsTheReference := by
  intro s cnt base ans rest i hinv hf hr hidle hbase hadm hi hin
  have hd : decode s.params.addrW (encode (.read cnt base)) = .ok (.read cnt base) := decode_encode (decide_eq_true hbase)
  have hstep := step_of_command hf hr hinv.fifo hin hd
  have hread := exec_read (s := s.accepted (.issue .consumer (encode (.read cnt base)) ans)
    (List.replicate (i + 1) .readStep ++ rest)) cnt base rfl hidle
  replace hstep := hstep.trans hread
  have hopen : State.Reading cnt.toNat (((s.accepted (.issue .consumer (encode (.read cnt base)) ans)
      (List.replicate (i + 1) .readStep ++ rest)).readBegun cnt base).ranSilently) :=
    { fifo := by simpa using hinv.fifo
      fault := hf
      refused := hr
      active := rfl
      missing := Nat.zero_add _
      admitted := hadm }
  obtain ⟨t, hrun, hend⟩ := hopen.run_endsRead hi rfl
  have hsteps : run (1 + i + 1) s = .next t := by
    rw [Nat.add_comm 1 i]
    exact (run_succ_of_step hstep).trans hrun
  have hresp := hend.responses
  rw [show BitVec.toNat _ = 0 from rfl, Nat.zero_add] at hresp
  exact ⟨t, hsteps, hend.inbox, hend.closed, hend.fault, hend.refused, hresp, hend.queue, hend.mods, hend.cmem⟩

end Sys2Proof.Machine
end

section
/-! A READ that interrupts without a character keep open (R168). -/

namespace Sys2Proof.Machine

variable {s t u : State} {rest : List Attempt}

/-- The break code of key number 0 gives no character and changes no flag (R129). -/
theorem translate_break_zero (m : Modifiers) : translate 0x80 m = (none, m) := rfl

/-- An unfinished call with nothing to read, and the handler registered, in an unmarked, unbroken state. -/
structure State.Starved (s : State) : Prop where
  fifo       : s.brokenInvariant = none
  fault      : s.fault = none
  refused    : s.refused = none
  registered : s.irqReg = true
  active     : s.rdActive = true
  unfinished : s.rdWritten.toNat < s.rdReq.toNat
  empty      : s.count = 0

theorem State.Starved.accepted (h : s.Starved) (a : Attempt) (rest : List Attempt) : (s.accepted a rest).Starved :=
  { h with fifo := by simpa using h.fifo }

/-- The handler stores the byte it reads as the only entry. -/
theorem State.Starved.serviced (h : s.Starved) (b : Byte) :
    (s.serviced b).brokenInvariant = none ∧ (s.serviced b).count = 1 ∧
      (s.serviced b).mem.read (s.serviced b).head = some b := by
  obtain ⟨-, ⟨hhead, -⟩, -, hmeet, -⟩ := (State.brokenInvariant_eq_none s).1 h.fifo
  have hroom : s.count ≠ s.params.depth := by rw [h.empty]; omega
  have hpush : s.pushed b = s.stored b := State.pushed_of_room b (beq_eq_false_iff_ne.2 hroom)
  have hone : (s.stored b).count = 1 := congrArg (· + 1) h.empty
  have hread : (s.stored b).mem.read (s.stored b).head = some b := by
    rw [State.stored_head, hmeet h.empty]
    exact Memory.read_write_same _ _ b
  have hfifo : (s.serviced b).brokenInvariant = (s.stored b).brokenInvariant :=
    hpush ▸ State.brokenInvariant_congr (s := s.pushed b) rfl rfl rfl rfl rfl
  refine ⟨hfifo.trans (State.fifo_stored b h.fifo hroom), ?_, ?_⟩ <;> rw [State.serviced, hpush]
  · exact hone
  · exact hread

/-- `t` is a state in which the call still waits as it did in `s`, `n` rounds later: nothing written, and two events a round. -/
structure State.StillStarved (s : State) (n : Nat) (t : State) : Prop where
  starved : t.Starved
  written : t.rdWritten = s.rdWritten
  cmem    : t.cmem = s.cmem
  events  : t.history.length = s.history.length + 2 * n

theorem State.StillStarved.trans {m n : Nat} (h : s.StillStarved m u) (h' : u.StillStarved n t) :
    s.StillStarved (m + n) t where
  starved := h'.starved
  written := h'.written.trans h.written
  cmem := h'.cmem.trans h.cmem
  events := by rw [h'.events, h.events, Nat.mul_add, Nat.add_assoc]

/-- The handler's byte 0x80, read by the iteration that follows: both events are the handler's. -/
theorem State.Starved.readStep_serviced (h : s.Starved) (rest : List Attempt) :
    s.StillStarved 1 (readStepState ((s.serviced 0x80).accepted .readStep rest)) ∧
      (readStepState ((s.serviced 0x80).accepted .readStep rest)).inbox = rest := by
  obtain ⟨hfifo, hone, hread⟩ := h.serviced 0x80
  have hactive : (s.serviced 0x80).rdActive = true := by simpa using h.active
  have hlt : (s.serviced 0x80).rdWritten.toNat < (s.serviced 0x80).rdReq.toNat := by simpa using h.unfinished
  have h0 : 0 < (s.serviced 0x80).count := hone ▸ Nat.one_pos
  have hpopped : ((s.serviced 0x80).accepted .readStep rest).removed.brokenInvariant = none :=
    State.fifo_removed (by simpa using hfifo) h0
  rw [readStepState_of_silent (s := (s.serviced 0x80).accepted .readStep rest) hactive hlt h0 hread (translate_break_zero _)]
  exact ⟨{
    starved :=
      { fifo := by simpa using hpopped
        fault := by simpa using h.fault
        refused := by simpa using h.refused
        registered := by simpa using h.registered
        active := hactive
        unfinished := hlt
        empty := congrArg (· - 1) hone }
    written := by simp
    cmem := by simp
    events := List.length_append }, rfl⟩

/-- An attempt of IRQ with its byte fixed, once the handler is registered. -/
theorem step_of_irq {b : Byte} (hf : s.fault = none) (hr : s.refused = none) (hb : s.brokenInvariant = none)
    (hreg : s.irqReg = true) (hi : s.inbox = .issue .producer (encode .irq) (some b) :: rest) :
    step s = .next ((s.accepted (.issue .producer (encode .irq) (some b)) rest).serviced b) :=
  (step_of_command hf hr hb hi (decode_encode rfl)).trans (exec_irq rfl hreg)

/-- One round of the schedule: an interrupt that brings 0x80, and a READ step. -/
theorem State.Starved.round (h : s.Starved)
    (hin : s.inbox = .issue .producer (encode .irq) (some 0x80) :: .readStep :: rest) :
    ∃ t, (∀ k, run (k + 2) s = run k t) ∧ t.inbox = rest ∧ s.StillStarved 1 t := by
  have hirq := step_of_irq h.fault h.refused h.fifo h.registered hin
  have h' := h.accepted (.issue .producer (encode .irq) (some 0x80)) (.readStep :: rest)
  obtain ⟨hfifo, -, -⟩ := h'.serviced 0x80
  have hread := step_of_readStep ((State.serviced_fault ..).trans h'.fault) ((State.serviced_refused ..).trans h'.refused)
    hfifo (State.serviced_inbox ..)
  obtain ⟨hstill, hrest⟩ := h'.readStep_serviced rest
  exact ⟨_, fun k => (run_succ_of_step hirq).trans (run_succ_of_step hread), hrest, { hstill with }⟩

/-- Any number of rounds. -/
theorem State.Starved.rounds (h : s.Starved) {n : Nat}
    (hin : s.inbox = (List.replicate n [.issue .producer (encode .irq) (some 0x80), .readStep]).flatten) :
    ∃ t, run (2 * n) s = .next t ∧ t.inbox = [] ∧ s.StillStarved n t := by
  induction n generalizing s with
  | zero => exact ⟨s, rfl, hin, h, rfl, rfl, rfl⟩
  | succ n ih =>
    obtain ⟨u, hround, hrest, hu⟩ := h.round hin
    obtain ⟨t, hrun, hinbox, ht⟩ := ih hu.starved hrest
    exact ⟨t, (hround (2 * n)).trans hrun, hinbox, Nat.add_comm 1 n ▸ hu.trans ht⟩

/-- Settles O59: each round leaves a state in which the next can be made. -/
theorem readNeedNotTerminate : Obligations.ReadNeedNotTerminate := by
  intro n s hinv hf hr hreg hopen hlt hempty hin
  have hstarved : s.Starved := ⟨hinv.fifo, hf, hr, hreg, hopen, hlt, hempty⟩
  obtain ⟨t, hrun, hinbox, h⟩ := hstarved.rounds hin
  exact ⟨t, hrun, hinbox, h.starved.active, h.written, h.starved.empty, h.cmem, h.events⟩

end Sys2Proof.Machine
end

section
/-! The four outcomes of an attempt, said once (R200), and what follows from them: the fault (R201, R202), the refusals (R203) and
the order of the checks (R207). -/

namespace Sys2Proof.Machine

variable {s t : State} {a : Attempt} {i : Instr}

/-! ### When each refusal is given -/

/-- The condition under which the issuer's command `i` is refused for this reason: checks 4 and 5 of R207, and DINIT's own check
after them (R150, R203). -/
def State.Refuses (s : State) (i : Instr) : RefusalReason → Prop
  | .wrongAgent => s.issuer ≠ i.agent
  | .consumerBusy => s.issuer = i.agent ∧ s.issuer = .consumer ∧ s.rdActive = true
  | .doubleInit => s.issuer = i.agent ∧ s.rdActive = false ∧ i = .dinit ∧ s.irqReg = true

/-- The three conditions exclude each other: WRONG_AGENT and the others by the issuer, the other two by RD_ACTIVE. -/
theorem State.Refuses.unique {r r' : RefusalReason} (h : s.Refuses i r) (h' : s.Refuses i r') : r = r' := by
  match r, r', h, h' with
  | .wrongAgent, .wrongAgent, _, _ | .consumerBusy, .consumerBusy, _, _ | .doubleInit, .doubleInit, _, _ => rfl
  | .wrongAgent, .consumerBusy, hne, ⟨hag, _⟩ | .wrongAgent, .doubleInit, hne, ⟨hag, _⟩
  | .consumerBusy, .wrongAgent, ⟨hag, _⟩, hne | .doubleInit, .wrongAgent, ⟨hag, _⟩, hne => exact absurd hag hne
  | .consumerBusy, .doubleInit, ⟨_, _, hbusy⟩, ⟨_, hidle, _⟩
  | .doubleInit, .consumerBusy, ⟨_, hidle, _⟩, ⟨_, _, hbusy⟩ => simp [hbusy] at hidle

/-- Once a refusal is given, its reason is the one whose condition holds. -/
theorem State.Refuses.reason_iff {r r' : RefusalReason} (h : s.Refuses i r) : r = r' ↔ s.Refuses i r' :=
  ⟨fun e => e ▸ h, h.unique⟩

/-! ### Which faults a rule raises -/

/-- Of the commands' rules only POP's writes FAULT. -/
theorem ruleOf_fault_of_ne_pop (s : State) (hi : i ≠ .pop) : (ruleOf i s).fault = s.fault := by
  cases i with
  | pop => exact absurd rfl hi
  | push b => exact s.pushed_fault b
  | dinit => rcases bodyDinit_cases s with ⟨-, e⟩ | ⟨-, e⟩ <;> rw [ruleOf, e] <;> rfl
  | irq => rcases bodyIrq_cases s with ⟨-, e⟩ | ⟨-, e⟩ <;> simp [ruleOf, e]
  | finit | empty | xlat | read => rfl

/-- Where no invariant is broken, no rule raises F_INVARIANT: the entry POP would miss is written (R103). -/
theorem ruleOf_cause_ne_invariant {m : FaultMark} (hf : s.fault = none) (hb : s.brokenInvariant = none)
    (hm : (ruleOf i s).fault = some m) (n : Nat) : m.cause ≠ .invariant n := by
  by_cases hi : i = .pop
  · subst hi
    rcases bodyPop_cases s with ⟨-, e⟩ | ⟨h0, hnone, -⟩ | ⟨-, v, -, e⟩
    · rw [ruleOf, e, State.enterFault_fault] at hm
      cases hm
      exact nofun
    · obtain ⟨v, hv⟩ := State.head_written hb h0
      simp [hnone] at hv
    · simp [ruleOf, e, hf] at hm
  · simp [ruleOf_fault_of_ne_pop s hi, hf] at hm

/-! ### The four outcomes -/

/-- The four ways in which attempt `a`, taken off the schedule in `s`, can end in `t` (R200). F_INVARIANT is raised only where an
invariant is broken (R201). -/
inductive AttemptOutcome (a : Attempt) (s t : State) : Prop
  | ran (hlast : t.last = some .ran) (hf : t.fault = s.fault) (hr : t.refused = s.refused) (hin : t.inbox = s.inbox)
      (hag : t.issuer = s.issuer)
  | faulted (m : FaultMark) (hag : m.agent = a.agent) (hwords : m.words = a.words)
      (hcause : s.brokenInvariant = none → ∀ n, m.cause ≠ .invariant n)
      (ht : t = { s with fault := some m, last := some .faulted })
  | refused (c : Command) (b : Option Byte) (i : Instr) (r : RefusalReason) (ha : a = .issue s.issuer c b)
      (hd : decode s.params.addrW c = .ok i) (hgiven : s.Refuses i r) (ht : t = s.enterRefusal r s.issuer c.words)
  | noStep (ht : t = s.noStep)

/-- A READ step: its fault is F_INVARIANT, for an entry that no unbroken FIFO lacks (R163). -/
theorem readStepState_outcome (s : State) : AttemptOutcome .readStep s (readStepState s) := by
  rcases readStep_cases s with ⟨-, e⟩ | ⟨-, -, h0, hnone, e⟩ | ⟨-, -, -, v, -, -, e⟩ | ⟨-, -, -, v, c, -, -, -, e⟩ |
    ⟨-, -, e⟩ <;> rw [e]
  · exact .noStep rfl
  · refine .faulted _ rfl rfl (fun hb => ?_) rfl
    obtain ⟨v, hv⟩ := State.head_written hb h0
    simp [hnone] at hv
  · exact .ran rfl rfl rfl rfl rfl
  · exact .ran rfl rfl rfl rfl rfl
  · exact .ran rfl rfl rfl rfl rfl

/-- A legal command: refused by checks 4 and 5, or as its rule ends. -/
theorem checked_outcome {c : Command} (b : Option Byte) (hd : decode s.params.addrW c = .ok i) (hf : s.fault = none) :
    AttemptOutcome (.issue s.issuer c b) s (checked i (ruleOf i) s) := by
  obtain ⟨hwords, -⟩ := words_encode_of_decode hd
  rcases checked_cases i (ruleOf i) s with ⟨hag, e⟩ | ⟨hag, hc, hbusy, e⟩ | ⟨hag, hidle, e⟩ <;> rw [e]
  · exact .refused c b i .wrongAgent rfl hd hag (by rw [hwords])
  · exact .refused c b i .consumerBusy rfl hd ⟨hag, hc, hbusy⟩ (by rw [hwords])
  rcases ruleOf_outcome i s with ⟨hlast, hfault, hrefused, hin, his⟩ | ⟨m, hagent, hm, e⟩ | ⟨rfl, hreg, e⟩ | e
  · exact .ran hlast hfault hrefused hin his
  · exact .faulted m hagent (hm.trans hwords) (fun hb => ruleOf_cause_ne_invariant hf hb (congrArg (·.fault) e)) e
  · exact .refused c b .dinit .doubleInit rfl hd ⟨hag, hidle hag, rfl, hreg⟩ (by rw [e, hwords]; rfl)
  · exact .noStep e

/-- Any attempt, by checks 2 and 3 of R207 and then by what is attempted. -/
theorem attempted_outcome (hag : s.issuer = a.agent) (hf : s.fault = none) : AttemptOutcome a s (attempted a s) := by
  cases hb : s.brokenInvariant with
  | some n => exact .faulted _ rfl rfl (by simp [hb]) (attempted_of_broken a hb)
  | none =>
    cases a with
    | readStep => exact attempted_readStep hb ▸ readStepState_outcome s
    | issue ag c b =>
      obtain rfl : s.issuer = ag := hag
      cases hd : decode s.params.addrW c with
      | error e => exact .faulted ⟨.illegalCmd c.words, _, c.words⟩ rfl rfl (fun _ => nofun) (attempted_illegal _ b hb hd)
      | ok i => exact attempted_command _ b hb hd ▸ checked_outcome b hd hf

/-- A step that answers a state idles, or makes the next attempt from an unmarked state. -/
theorem step_outcome (h : step s = .next t) :
    t = s ∨ s.fault = none ∧ s.refused = none ∧ ∃ a rest, s.inbox = a :: rest ∧ AttemptOutcome a (s.accepted a rest) t := by
  obtain ⟨hf, hr, ⟨-, rfl⟩ | ⟨a, rest, hi, -⟩⟩ := step_cases h
  · exact .inl rfl
  · obtain rfl := Host.Outcome.next.inj ((step_of_attempt hf hr hi).symm.trans h)
    exact .inr ⟨hf, hr, a, rest, hi, attempted_outcome rfl hf⟩

/-! ### F_INVARIANT (R201) -/

/-- FAULT does not record F_INVARIANT. -/
def State.NoInvariantFault (s : State) : Prop := ∀ m n, s.fault = some m → m.cause ≠ .invariant n

/-- A step that finds no broken invariant does not raise F_INVARIANT. -/
theorem step_keeps_noInvariantFault (hb : s.brokenInvariant = none) (hs : s.NoInvariantFault) (h : step s = .next t) :
    t.NoInvariantFault := by
  rcases step_outcome h with rfl | ⟨-, -, a, rest, -, hout⟩
  · exact hs
  cases hout with
  | ran _ hf => exact fun m n hm => hs m n (hf.symm.trans hm)
  | faulted m _ _ hcause ht =>
    subst ht
    rintro _ n ⟨⟩
    exact hcause (by simpa using hb) n
  | refused _ _ _ _ _ _ _ ht | noStep ht => subst ht; exact hs

/-- Settles O43: a run keeps the FIFO invariants, and a step raises F_INVARIANT only where one is broken. -/
theorem invariantFaultIsUnreachable : Obligations.InvariantFaultIsUnreachable := by
  intro k s t m n hinv hf hrun
  have hstart : s.brokenInvariant = none ∧ s.NoInvariantFault := ⟨hinv.fifo, by simp [State.NoInvariantFault, hf]⟩
  obtain ⟨-, ht⟩ := run_induction (P := fun u => u.brokenInvariant = none ∧ u.NoInvariantFault)
    (fun _ _ ⟨hb, hs⟩ h => ⟨step_keeps_fifo hb h, step_keeps_noInvariantFault hb hs h⟩) hstart hrun
  exact ht m n

/-! ### The marks (R200, R202, R203) -/

/-- Settles O12: of the four outcomes only the fault sets FAULT. -/
theorem faultEntryIsPrecise : Obligations.FaultEntryIsPrecise := by
  intro s t m hf h hm
  refine ⟨?_, fun u => by simp [step_of_fault hm], fun ⟨hnone, _⟩ => by simp [hnone] at hm⟩
  rcases step_outcome h with rfl | ⟨-, -, a, rest, hi, hout⟩
  · simp [hf] at hm
  cases hout with
  | faulted m' hag hwords _ ht =>
    subst ht
    obtain rfl : m' = m := Option.some.inj hm
    exact ⟨a, rest, hi, hag, hwords, rfl⟩
  | ran _ hkeep => simp [hkeep, hf] at hm
  | refused _ _ _ _ _ _ _ ht | noStep ht => simp [ht, hf] at hm

/-- Settles O13: of the four outcomes only the refusal sets REFUSED, and the conditions of the three reasons exclude each other. -/
theorem refusalEntryChangesOnlyTheMark : Obligations.RefusalEntryChangesOnlyTheMark := by
  intro s t m hr h hm
  refine ⟨?_, fun u hu => ?_⟩
  · rcases step_outcome h with rfl | ⟨-, -, a, rest, hi, hout⟩
    · simp [hr] at hm
    cases hout with
    | refused c b i r ha hd hgiven ht =>
      subst ht
      obtain rfl : _ = m := Option.some.inj hm
      exact ⟨a.agent, c, b, rest, i, ha ▸ hi, hd, rfl, rfl, by rw [ha]; rfl, hgiven.reason_iff, hgiven.reason_iff,
        hgiven.reason_iff⟩
    | ran _ _ hkeep => simp [hkeep, hr] at hm
    | faulted _ _ _ _ ht | noStep ht => simp [ht, hr] at hm
  · obtain ⟨-, hnone, -⟩ := step_cases hu
    simp [hnone] at hm

/-- Settles O14. -/
theorem everyAttemptHasOneOfFourOutcomes : Obligations.EveryAttemptHasOneOfFourOutcomes := by
  intro s a rest hf hr hi
  refine ⟨_, step_of_attempt hf hr hi, ?_⟩
  cases attempted_outcome (s := s.accepted a rest) rfl hf with
  | ran hlast hfault hrefused hin hag => exact ⟨hin, hag, .inl ⟨hlast, hfault.trans hf, hrefused.trans hr⟩⟩
  | faulted m _ _ _ ht => rw [ht]; exact ⟨rfl, rfl, .inr (.inl ⟨m, rfl⟩)⟩
  | refused _ _ _ _ _ _ _ ht => rw [ht]; exact ⟨rfl, rfl, .inr (.inr (.inl ⟨_, rfl⟩))⟩
  | noStep ht => rw [ht]; exact ⟨rfl, rfl, .inr (.inr (.inr rfl))⟩

/-! ### The order of the checks (R207) -/

/-- Settles O7. -/
theorem stepRunsTheDecodedCommand : Obligations.StepRunsTheDecodedCommand :=
  fun _ _ hf hr hb => ⟨fun _ _ _ _ => step_of_command hf hr hb, step_of_readStep hf hr hb⟩

/-- Settles O10: check 2 comes before the attempt is looked at. -/
theorem brokenInvariantFaultsEveryAttempt : Obligations.BrokenInvariantFaultsEveryAttempt := by
  intro s a rest n hf hr hb hi
  rw [step_of_attempt hf hr hi, attempted_of_broken (s := s.accepted a rest) a (by simpa using hb)]
  rfl

/-- Settles O15: check 4. -/
theorem wrongAgentIsRefused : Obligations.WrongAgentIsRefused := by
  intro i s hag
  rw [exec_eq, checked_of_wrongAgent _ hag]
  rfl

/-- Settles O16: check 5. -/
theorem busyConsumerIsRefused : Obligations.BusyConsumerIsRefused := by
  intro i s hi hs hbusy
  rw [exec_eq, checked_of_busy _ (hs.trans hi.symm) hs hbusy, hs]
  rfl

end Sys2Proof.Machine
end

section
/-! Check then pop: while only the Producer makes attempts, the oldest entry stays where it is (R254). -/

namespace Sys2Proof.Machine

variable {s t : State} {v : Byte} {q : List Byte}

/-- The first entry of the queue is the byte at HEAD. -/
theorem State.oldest_of_queue_eq_cons (hb : s.brokenInvariant = none) (hq : s.queue = v :: q) :
    0 < s.count ∧ s.mem.read s.head = some v := by
  have h0 : 0 < s.count := by rw [← State.length_queue hb, hq]; exact Nat.succ_pos _
  obtain ⟨w, hw, hcons⟩ := State.queue_eq_cons hb h0
  obtain ⟨rfl, -⟩ := List.cons.inj (hq.symm.trans hcons)
  exact ⟨h0, hw⟩

/-- A step whose attempt is the Producer's only adds behind the queue. -/
theorem step_producer_waits (hb : s.brokenInvariant = none) (hin : ∀ a ∈ s.inbox, a.agent = .producer)
    (h : step s = .next t) : s.Waits t := by
  rcases step_rule_cases h with hm | ⟨i, c, b, rest, hi, -, -, rfl⟩ | ⟨rest, hi, -⟩
  · exact hm.waits
  · have hagent : i.agent = .producer := hin (.issue i.agent c b) (by simp [hi])
    exact (s.waits_accepted _ rest).trans (ruleOf_producer_waits hagent hagent hb)
  · cases hin .readStep (by simp [hi])

theorem run_producer_waits {k : Nat} (hb : s.brokenInvariant = none) (hin : ∀ a ∈ s.inbox, a.agent = .producer)
    (h : run k s = .next t) : s.Waits t ∧ t.brokenInvariant = none := by
  induction k generalizing s with
  | zero =>
    obtain rfl := Host.Outcome.next.inj h
    exact ⟨.refl s, hb⟩
  | succ k ih =>
    obtain ⟨u, hu, hrun⟩ := run_succ h
    obtain ⟨hrest, hfifo⟩ := ih (step_keeps_fifo hb hu) (fun a ha => hin a (step_inbox_subset hu ha)) hrun
    exact ⟨(step_producer_waits hb hin hu).trans hrest, hfifo⟩

/-- Settles O50: the run leaves the oldest byte at the front of the queue and no READ call open, so POP finds it. -/
theorem popAfterNotEmptyIsSafe : Obligations.PopAfterNotEmptyIsSafe := by
  intro k s t hb h0 hidle hin hrun _
  obtain ⟨⟨hside, -, new, hqueue⟩, hfifo⟩ := run_producer_waits hb hin hrun
  obtain ⟨-, -, hcall, -⟩ := ConsumerSide.mk.inj hside
  obtain ⟨hactive, -⟩ := CallRegisters.mk.inj hcall
  obtain ⟨v, hv, hcons⟩ := State.queue_eq_cons hb h0
  rw [hcons, List.cons_append] at hqueue
  obtain ⟨hpos, hread⟩ := State.oldest_of_queue_eq_cons hfifo hqueue.symm
  exact ⟨_, v, exec_pop_of_written (s := t.issuedBy .consumer) rfl (hactive.trans hidle) hpos.ne' hread, rfl, rfl, hv, rfl⟩

end Sys2Proof.Machine
end
